-- ==== Sys2Proof/Word.lean ====
section
/-!
DEFINITION. Word.lean: the two word types of the FEM (00_scope.md R11) and the group of four bytes in
transmit order that the magic tag and each pixel's payload are made of (30_encoding.md R71, R76).
-/

namespace Sys2Proof

/-- A byte, 8 bits (R11). -/
abbrev Byte := BitVec 8

/-- A 32-bit value: the checksum register and the trailer (10_state.md R30, 30_encoding.md R77). -/
abbrev Word := BitVec 32

/-- Four bytes in transmit order: `b0` is sent first (R12). -/
structure Quad where
  b0 : Byte
  b1 : Byte
  b2 : Byte
  b3 : Byte
deriving DecidableEq, Repr

/-- The byte sequence of a group of four. -/
def Quad.bytes (q : Quad) : List Byte := [q.b0, q.b1, q.b2, q.b3]

/-- The byte at position `j` of a group; positions are 0 to 3 (10_state.md R23). -/
def Quad.at (q : Quad) (j : Nat) : Byte :=
  match j with
  | 0 => q.b0
  | 1 => q.b1
  | 2 => q.b2
  | _ => q.b3

end Sys2Proof
end

