-- ==== Sys2Proof/Syntax.lean ====
section
/-!
DEFINITION. Syntax.lean: the pixel (10_state.md R21) and one constructor of Instr for each row of
spec/opcode_table.json: the two wire frames and the six operations with typed operands (30_encoding.md R83). Lengths, counts, ring ids
and indices are natural numbers without a width (DEDUCED, safe, log 6).
-/

namespace Sys2Proof

/-- A pixel: four independent bytes (R21). -/
structure Pixel where
  r : Byte
  g : Byte
  b : Byte
  w : Byte
deriving DecidableEq, Repr

/-- Colour channel `k` of a pixel: 0 is R, 1 is G, 2 is B, 3 is W (R21). -/
def Pixel.channel (p : Pixel) (k : Nat) : Byte :=
  match k with
  | 0 => p.r
  | 1 => p.g
  | 2 => p.b
  | _ => p.w

/-- The rows of the table. A wire frame carries the fields that are not fixed by its format: for PIXEL the
record type 1, the element count 4 and the pixel count (the payload's length) are implied, for LATCH the
channel 255 and the type 2. The trailer is a field of its own, since finding a frame's end does not check
the checksum (R78). -/
inductive Instr where
  /-- PIXEL (R72): channel, order byte, payload groups in wire order, trailer. -/
  | pixel (channel order : Byte) (payload : List Quad) (trailer : Word)
  /-- LATCH (R73): trailer. -/
  | latch (trailer : Word)
  /-- ENCPIX c, pixels (40_encoder.md R104). -/
  | encpix (c : Byte) (pixels : List Pixel)
  /-- ENCLATCH (40_encoder.md R105). -/
  | enclatch
  /-- RALLOC n, rev (41_mapper.md R133). -/
  | ralloc (n : Nat) (rev : Bool)
  /-- RMAP r, i (41_mapper.md R134). -/
  | rmap (r i : Nat)
  /-- RSET r, i, color (41_mapper.md R135). -/
  | rset (r i : Nat) (color : Pixel)
  /-- RNUM r (41_mapper.md R136). -/
  | rnum (r : Nat)
deriving DecidableEq, Repr

end Sys2Proof
end

