-- ==== Sys2Proof/Config.lean ====
section
/-!
DEFINITION. Config.lean: the constants the spec fixes (00_scope.md R7), the parameters it leaves open
(R8, 10_state.md R22) as one record of plain data, and the free values.
-/

namespace Sys2Proof

/-- The checksum's parameters (R8, R22), each in the orientation in which the working register uses it:
`poly` and `init` are the reflected forms when `refin` is set. The variant of 40_encoder.md R100 is
`CrcParams.standard`. What the other values mean is PRESUMED (log 3, unsafe for claims about them). -/
structure CrcParams where
  poly   : Word
  init   : Word
  refin  : Bool
  refout : Bool
  xorout : Word
deriving DecidableEq, Repr

/-- The variant 40_encoder.md R100 decides on. -/
def CrcParams.standard : CrcParams :=
  { poly := 0xEDB88320#32, init := 0xFFFFFFFF#32, refin := true, refout := true, xorout := 0xFFFFFFFF#32 }

/-- The open parameters of the block (R8). IDX_W and LEN_W are held as the surplus over the least value
their constraint allows, so that every record meets it (DESIGN CHOICE, safe, log 5). ORDER is held as the
raw byte: an illegal one is the ill-formed configuration of 10_state.md R23. -/
structure Config where
  /-- MAGIC, in transmit order. -/
  magic    : Quad
  /-- ORDER. -/
  order    : Byte
  crc      : CrcParams
  /-- STRIP_LEN. -/
  stripLen : Nat
  /-- NRINGS, the capacity of the ring descriptor file. -/
  ringCap  : Nat
  /-- IDX_W less the least width that holds STRIP_LEN. -/
  idxPad   : Nat
  /-- LEN_W less 17. -/
  lenPad   : Nat
deriving DecidableEq, Repr

namespace Config

/-- EPP (R7). -/
def epp : Byte := 4#8
/-- TYPE_PIXEL (R7). -/
def typePixel : Byte := 1#8
/-- TYPE_LATCH (R7). -/
def typeLatch : Byte := 2#8
/-- CH_LATCH (R7). -/
def chLatch : Byte := 255#8
/-- CH_MAX (R7). -/
def chMax : Nat := 254
/-- MAX_COUNT (R7). -/
def maxCount : Nat := 65535
/-- CURSOR_RESET (R7). -/
def cursorReset : Nat := 0

/-- The least IDX_W with `STRIP_LEN < 2^IDX_W` (R8): 0 for an empty strip. -/
def leastIdxW (stripLen : Nat) : Nat := if stripLen = 0 then 0 else Nat.log2 stripLen + 1

/-- IDX_W (R8): wide enough for STRIP_LEN. Every width the constraint allows is this for some surplus. -/
def idxW (c : Config) : Nat := leastIdxW c.stripLen + c.idxPad

/-- LEN_W (R8): at least 17. -/
def lenW (c : Config) : Nat := 17 + c.lenPad

/-- The default MAGIC that 00_scope.md R8 offers (K1: not from the source; PRESUMED, log 2). -/
def defaultMagic : Quad := ⟨0x55#8, 0x50#8, 0x58#8, 0x4C#8⟩

/-- The 24 legal values of ORDER (10_state.md R23). -/
def legalOrders : List Byte :=
  [0xE4#8, 0xB4#8, 0xD8#8, 0x78#8, 0x9C#8, 0x6C#8, 0xE1#8, 0xB1#8, 0xC9#8, 0x39#8, 0x8D#8, 0x2D#8] ++
  [0xD2#8, 0x72#8, 0xC6#8, 0x36#8, 0x4E#8, 0x1E#8, 0x93#8, 0x63#8, 0x87#8, 0x27#8, 0x4B#8, 0x1B#8]

/-- FREE VALUE (log 4, safe): which of the 24 legal orders the hardware has. -/
opaque freeOrderIndex : Fin 24
/-- FREE VALUE (log 4, safe): STRIP_LEN. -/
opaque freeStripLen : Nat
/-- FREE VALUE (log 4, safe): NRINGS. -/
opaque freeRingCap : Nat
/-- FREE VALUE (log 4, safe): the surplus of IDX_W. -/
opaque freeIdxPad : Nat
/-- FREE VALUE (log 4, safe): the surplus of LEN_W. -/
opaque freeLenPad : Nat

/-- FREE VALUE (log 10, safe): the pixels a received frame's payload stands for when its order byte is no
permutation; "what the payload of such a frame means is undefined" (30_encoding.md R80 (e)). -/
opaque freePixels : Byte → List Quad → List Pixel

/-- The configuration the machine has at reset: MAGIC and the checksum as the spec offers and decides them,
the parameters without a default free. -/
def hardware : Config :=
  { magic := defaultMagic, order := legalOrders.getD freeOrderIndex.val 0xE4#8, crc := CrcParams.standard,
    stripLen := freeStripLen, ringCap := freeRingCap, idxPad := freeIdxPad, lenPad := freeLenPad }

end Config

end Sys2Proof
end

