-- ==== Sys2Proof/WellFormed.lean ====
section
/-!
DEFINITION. WellFormed.lean: which terms of Instr are instructions. A wire frame has to be one of the two
formats (30_encoding.md R70, R72, R80); an operation is any value of its operands (R83).
-/

namespace Sys2Proof

/-- A PIXEL frame's channel is 0 to 254 and its count fits 16 bits (R70, R72). Its order byte may be any:
"(e) does not change where the frame ends" (R80; DEDUCED, log 17). Operations have no ill-formed operand:
a channel of 255 or an over-long sequence is a fault of the operation, not of its form (R104). -/
def Instr.wellFormed : Instr → Bool
  | .pixel channel _ payload _ => decide (channel.toNat ≤ Config.chMax) && decide (payload.length ≤ Config.maxCount)
  | .latch _ => true
  | .encpix _ _ => true
  | .enclatch => true
  | .ralloc _ _ => true
  | .rmap _ _ => true
  | .rset _ _ _ => true
  | .rnum _ => true

/-- The two rows of the table that are wire frames (R82). -/
def Instr.isFrame : Instr → Bool
  | .pixel _ _ _ _ => true
  | .latch _ => true
  | .encpix _ _ => false
  | .enclatch => false
  | .ralloc _ _ => false
  | .rmap _ _ => false
  | .rset _ _ _ => false
  | .rnum _ => false

end Sys2Proof
end

