-- ==== Sys2Proof/Decode.lean ====
section
/-!
DEFINITION. Decode.lean: byte order and bit fields (00_scope.md R11, R13), the layout of the two wire frames
(30_encoding.md R72, R73), the frame-length function (R78), the header parse (R79) and the reader of a stream
(40_encoder.md R112). The six operations have no binary encoding (R83): nothing decodes to them and `encode`
has no bytes for them.
-/

namespace Sys2Proof

/-- `v[hi:lo]` (R11). -/
def bits (v hi lo : Nat) : Nat := v / 2 ^ lo % 2 ^ (hi - lo + 1)

/-- `le16` (R13); for numbers below 65536. -/
def le16 (n : Nat) : List Byte := [BitVec.ofNat 8 n, BitVec.ofNat 8 (n / 256)]

/-- `un16` (R13). -/
def un16 (a b : Byte) : Nat := a.toNat + 256 * b.toNat

/-- The four bytes of a 32-bit value, least significant first (R13). -/
def le32Quad (w : Word) : Quad :=
  ⟨BitVec.ofNat 8 (bits w.toNat 7 0), BitVec.ofNat 8 (bits w.toNat 15 8),
   BitVec.ofNat 8 (bits w.toNat 23 16), BitVec.ofNat 8 (bits w.toNat 31 24)⟩

/-- `le32` (R13). -/
def le32 (w : Word) : List Byte := (le32Quad w).bytes

/-- `un32` (R13). -/
def un32 (a b c d : Byte) : Word :=
  BitVec.ofNat 32 (a.toNat + 256 * b.toNat + 65536 * c.toNat + 16777216 * d.toNat)

/-- The payload's bytes: groups in order, no padding (R76). -/
def payloadBytes (payload : List Quad) : List Byte := payload.flatMap Quad.bytes

/-- A byte sequence cut into groups of four; a rest of fewer than four bytes is no group. -/
def groups : List Byte → List Quad
  | a :: b :: c :: d :: rest => ⟨a, b, c, d⟩ :: groups rest
  | _ => []

/-- The body of a PIXEL frame: every byte before the trailer (R72). -/
def pixelBody (magic : Quad) (channel order : Byte) (payload : List Quad) : List Byte :=
  magic.bytes ++ [channel, Config.typePixel, Config.epp, order] ++ le16 payload.length ++ payloadBytes payload

/-- The body of a LATCH frame (R73). -/
def latchBody (magic : Quad) : List Byte := magic.bytes ++ [Config.chLatch, Config.typeLatch]

/-- The bytes of a wire frame, trailer as given; none for an operation (R83). -/
def encode (magic : Quad) : Instr → Option (List Byte)
  | .pixel channel order payload trailer => some (pixelBody magic channel order payload ++ le32 trailer)
  | .latch trailer => some (latchBody magic ++ le32 trailer)
  | .encpix _ _ => none
  | .enclatch => none
  | .ralloc _ _ => none
  | .rmap _ _ => none
  | .rset _ _ _ => none
  | .rnum _ => none

/-- Why a byte sequence is `NotAFrame` (R78, R80). -/
inductive Reject where
  /-- The first four bytes are not MAGIC. -/
  | wrongMagic
  /-- A (channel, type) pair other than (0..254, 1) and (255, 2): R80 (a) to (c). -/
  | channelType
  /-- An element count other than 4: R80 (d). -/
  | elementCount
deriving DecidableEq, Repr

/-- The answers of `FrameLen` (R78). -/
inductive FrameLen where
  | needMore
  | notAFrame (why : Reject)
  | len (n : Nat)
deriving DecidableEq, Repr

/-- `FrameLen(s)` (R78): the length of the frame that starts at position 0. -/
def frameLen (magic : Quad) : List Byte → FrameLen
  | m0 :: m1 :: m2 :: m3 :: c :: t :: rest =>
    if Quad.mk m0 m1 m2 m3 ≠ magic then .notAFrame .wrongMagic
    else if t = Config.typeLatch ∧ c = Config.chLatch then .len 10
    else if t = Config.typePixel ∧ c.toNat ≤ Config.chMax then
      match rest with
      | e :: _ :: n0 :: n1 :: _ =>
        if e ≠ Config.epp then .notAFrame .elementCount else .len (14 + 4 * un16 n0 n1)
      | _ => .needMore
    else .notAFrame .channelType
  | _ => .needMore

/-- `s[j]` of R12; positions past the end are never asked for where the rules use it. -/
def byteAt (s : List Byte) (j : Nat) : Byte := s.getD j 0#8

/-- `trailer(s)` of a frame of `n` bytes (R79). -/
def trailerOf (s : List Byte) (n : Nat) : Word :=
  un32 (byteAt s (n - 4)) (byteAt s (n - 3)) (byteAt s (n - 2)) (byteAt s (n - 1))

/-- The header parse (R79) of a sequence that begins with a frame of `n` bytes. -/
def headerParse (s : List Byte) (n : Nat) : Instr :=
  if byteAt s 5 = Config.typeLatch then .latch (trailerOf s n)
  else .pixel (byteAt s 4) (byteAt s 7) (groups ((s.take (n - 4)).drop 10)) (trailerOf s n)

/-- What the reader makes of a byte sequence. -/
inductive Decoded where
  /-- The bytes so far are too few: "a stream parser reads more" (R78). -/
  | needMore
  | rejected (why : Reject)
  | frame (i : Instr) (rest : List Byte)
deriving DecidableEq, Repr

/-- The decoder, total on any bytes: `FrameLen`, then the header parse once the whole frame is there. -/
def decode (magic : Quad) (s : List Byte) : Decoded :=
  match frameLen magic s with
  | .needMore => .needMore
  | .notAFrame why => .rejected why
  | .len n => if s.length < n then .needMore else .frame (headerParse s n) (s.drop n)

/-- Reading a sequence frame by frame with at most `k` frames (R112). -/
def parseUpTo (magic : Quad) : Nat → List Byte → Option (List Instr)
  | 0, s => if s.isEmpty then some [] else none
  | k + 1, s =>
    if s.isEmpty then some []
    else match decode magic s with
      | .frame i rest => (parseUpTo magic k rest).map (i :: ·)
      | .needMore => none
      | .rejected _ => none

/-- The frames of a sequence read from its beginning, with nothing left over (R112); none if some position
is no frame. Every frame takes at least a byte, so the sequence's length bounds their number. -/
def parseStream (magic : Quad) (s : List Byte) : Option (List Instr) := parseUpTo magic s.length s

/-- The bytes of `nbits` bits numbered from the least significant bit of the first byte. -/
def tableBytes (nbits w : Nat) : List Byte :=
  (List.range ((nbits + 7) / 8)).map fun j => BitVec.ofNat 8 (w / 2 ^ (8 * j))

/-- Those bytes followed by zeros up to the length the header they begin gives (at least a whole header). -/
def tableFrame (magic : Quad) (nbits w : Nat) : List Byte :=
  let header := tableBytes nbits w ++ List.replicate (10 - (nbits + 7) / 8) 0#8
  match frameLen magic header with
  | .len n => header ++ List.replicate (n - header.length) 0#8
  | .notAFrame _ => header
  | .needMore => header

/-- The decoder on a word of the opcode table, whose rows show the default MAGIC (R82; log 18). -/
def decodeTableWord (nbits w : Nat) : Option Instr :=
  match decode Config.defaultMagic (tableFrame Config.defaultMagic nbits w) with
  | .frame i _ => some i
  | .needMore => none
  | .rejected _ => none

end Sys2Proof
end

