-- ==== Sys2Proof/Machine/State.lean ====
section
/-!
DEFINITION. Machine/State.lean: the machine's state as plain data (10_state.md), the error kinds
(60_exceptions.md R150), the outcomes of operations (00_scope.md R15), the reasons a step can stop, and the
state after reset (10_state.md R35, 70_reset_and_hazards.md R180).
-/

namespace Sys2Proof.Machine

/-- Sparse memory: (address, value) pairs. Canonical form: addresses strictly rising (`Memory.wf`, in Ops).
An unlisted address holds no value, which is what R26 and R28 say of an entry nothing has written. -/
abbrev Memory (α : Type) := List (Nat × α)

/-- An entry of the ring descriptor file (R26). -/
structure RingDesc where
  offset  : Nat
  count   : Nat
  reverse : Bool
deriving DecidableEq, Repr

/-- Which of its two checks a RALLOC failed (41_mapper.md R133). -/
inductive AllocCause where
  | tableFull
  | stripFull
deriving DecidableEq, Repr

/-- The error kinds with the information each records (R150). -/
inductive ErrorKind where
  /-- EncodingError: the length L (R151). -/
  | encodingError (length : Nat)
  /-- InvalidChannelError: the channel c (R152). -/
  | invalidChannelError (c : Byte)
  /-- IndexError: r and i (R153). -/
  | indexError (r i : Nat)
  /-- AllocationError: which of the two checks (R154). -/
  | allocationError (cause : AllocCause)
  /-- TransportError: the transport's, to the host; "The block never raises it" (R155). -/
  | transportError
deriving DecidableEq, Repr

/-- The header parse of one frame (30_encoding.md R79). For LATCH the fields that only PIXEL has are none
and the payload and pixels are empty. -/
structure FrameReading where
  channel   : Byte
  recType   : Byte
  elemCount : Option Byte
  order     : Option Byte
  count     : Option Nat
  payload   : List Quad
  pixels    : List Pixel
  trailer   : Word
  crcOk     : Bool
deriving DecidableEq, Repr

/-- The result an operation returns to the host (R15, R104, R105, R133 to R136). -/
inductive OpResult where
  /-- ENCPIX, ENCLATCH: the frame. -/
  | frame (bytes : List Byte)
  /-- RALLOC: (r, ring[r].offset). -/
  | ring (r offset : Nat)
  /-- RMAP: the global index. -/
  | index (g : Nat)
  /-- RSET: (). -/
  | unit
  /-- RNUM: the count. -/
  | count (n : Nat)
  /-- PIXEL, LATCH: what the frame reader read (log 9). -/
  | reading (f : FrameReading)
deriving DecidableEq, Repr

/-- The outcome of the last operation. R15's third outcome, Refused, is a step that ends in a refusal. -/
inductive OpOutcome where
  /-- No operation has ended since reset. -/
  | none
  | ok (result : OpResult)
  | fault (kind : ErrorKind)
deriving DecidableEq, Repr

/-- The state. `cfg` is the configuration, which nothing writes (log 1). `cursor` to `left` are the spec's
state (R24 to R30). `outcome`, `ops` and `rx` are the model's own (logs 7, 8, 9). -/
structure State where
  /-- The hardwired constants (R22). -/
  cfg     : Config
  /-- The offset cursor (R24). -/
  cursor  : Nat
  /-- How many rings have been constructed (R25). -/
  nrings  : Nat
  /-- The ring descriptor file (R26). -/
  ring    : Memory RingDesc
  /-- The shared pixel array (R28), written by the block only (DEDUCED, unsafe, log 12). -/
  strip   : Memory Pixel
  /-- The output log of unit E (R29). -/
  out     : List Byte
  /-- Working register: the running checksum (R30, R101). -/
  crc     : Word
  /-- Working register: bytes of the current frame produced (R30). -/
  pos     : Nat
  /-- Working register: payload pixels still to produce (R30). -/
  left    : Nat
  /-- The outcome of the last operation (R15). -/
  outcome : OpOutcome
  /-- Operations the host has issued and the block has not executed, oldest first (R34). -/
  ops     : List Instr
  /-- Bytes presented to the frame reader and not yet read (R78). -/
  rx      : List Byte
deriving DecidableEq, Repr

/-- Why the machine stops with a fault. Both need a state no run reaches (60_exceptions.md's error kinds are
no stops: they are `OpOutcome.fault` in a next state). -/
inductive Fault where
  /-- Raised by RMAP, RSET and RNUM for an entry `r < nrings` of the descriptor file that holds no value.
  Safe: R26 makes every such entry hold one (log 14). -/
  | ringHoldsNoValue (r : Nat)
  /-- Raised by RSET for a global index outside the strip space. Safe: such an address "is never produced by
  the block" (20_memory.md R51; log 15). -/
  | stripAddressOutside (g : Nat)
deriving DecidableEq, Repr

/-- Why a step has no meaning (R15: Refused). -/
inductive Refusal where
  /-- Raised by a dispatch arm whose instruction has no meaning yet. Safe. No arm does. -/
  | notModelled (mnemonic : String)
  /-- Raised by RMAP, RSET and RNUM for a ring id that names no constructed ring (R134 to R136, U8). Safe. -/
  | noSuchRing (r : Nat)
  /-- Raised by ENCPIX when ORDER is not a permutation (10_state.md R23, U10). Safe. -/
  | orderNotPermutation
  /-- Raised by PIXEL for a term that is no frame: channel 255 or a count over 65535 (30_encoding.md R80 (a),
  R70). Safe. -/
  | undefinedFrame
  /-- Raised by the frame reader for bytes that are `NotAFrame` (R78, U6). Safe. -/
  | notAFrame (why : Reject)
deriving DecidableEq, Repr

/-- What every step answers. -/
abbrev Outcome := Host.Outcome State Fault Refusal

/-- The state after reset under a configuration (R35, R180). The working registers have no reset value in
the spec; 0 is a DESIGN CHOICE (log 13, unsafe for a claim that reads it; none does). -/
def State.resetWith (cfg : Config) : State :=
  { cfg := cfg, cursor := Config.cursorReset, nrings := 0, ring := [], strip := [], out := [],
    crc := 0#32, pos := 0, left := 0, outcome := .none, ops := [], rx := [] }

/-- The state after reset. -/
def State.reset : State := State.resetWith Config.hardware

end Sys2Proof.Machine
end

