-- ==== Sys2Proof/Machine/Flags.lean ====
section
/-!
DEFINITION. Machine/Flags.lean: the hardware has no flags, condition codes or predicates (10_state.md R32).
What stands in their place: the checksum (40_encoder.md R100, R101), the check a reader can make with it
(30_encoding.md R79) and the status code of an outcome (60_exceptions.md R150).
-/

namespace Sys2Proof.Machine

/-- One of the eight shifts of `Step` (R100), in the orientation the parameters give. -/
def crcShift (p : CrcParams) (c : Word) : Word :=
  if p.refin then (if c.getLsbD 0 then (c >>> 1) ^^^ p.poly else c >>> 1)
  else (if c.getLsbD 31 then (c <<< 1) ^^^ p.poly else c <<< 1)

/-- Where a byte enters the register: the low 8 bits (R100); the high 8 bits when input is not reflected. -/
def crcEnter (p : CrcParams) (c : Word) (b : Byte) : Word :=
  if p.refin then c ^^^ b.setWidth 32 else c ^^^ (b.setWidth 32 <<< 24)

/-- `Step(c, b)` (R100). -/
def crcStep (p : CrcParams) (c : Word) (b : Byte) : Word := (crcShift p)^[8] (crcEnter p c b)

/-- The working register `crc` after the bytes of a body (R101). -/
def crcRegister (p : CrcParams) (body : List Byte) : Word := body.foldl (crcStep p) p.init

/-- The trailer value from the register: the final inversion (R100, R101). -/
def crcFinish (p : CrcParams) (c : Word) : Word := (if p.refin = p.refout then c else c.reverse) ^^^ p.xorout

/-- `CRC32(s)` (R100). -/
def crc32 (p : CrcParams) (s : List Byte) : Word := crcFinish p (crcRegister p s)

/-- `CrcOk` of a frame given as its body and its trailer (R79). -/
def crcOk (p : CrcParams) (body : List Byte) (trailer : Word) : Bool := decide (trailer = crc32 p body)

/-- The code of an error kind (R150). -/
def ErrorKind.code : ErrorKind → Nat
  | .encodingError _ => 1
  | .invalidChannelError _ => 2
  | .indexError _ _ => 3
  | .allocationError _ => 4
  | .transportError => 5

/-- The status code of an outcome: "Code 0 means no error" (R150). -/
def OpOutcome.code : OpOutcome → Nat
  | .none => 0
  | .ok _ => 0
  | .fault e => e.code

end Sys2Proof.Machine
end

