-- ==== Sys2Proof/Machine/Ops.lean ====
section
/-!
DEFINITION. Machine/Ops.lean: the named operations over the sparse memories, the descriptor file, the strip
and the output log, and the two ways an operation ends: Ok with a result, and the one shared fault entry
(60_exceptions.md R158).
-/

namespace Sys2Proof.Machine

/-- The value an address holds, if any. -/
def Memory.read {α : Type} : Memory α → Nat → Option α
  | [], _ => none
  | (a, v) :: rest, k => if a = k then some v else Memory.read rest k

/-- Give an address a value, keeping the addresses rising. -/
def Memory.write {α : Type} : Memory α → Nat → α → Memory α
  | [], k, v => [(k, v)]
  | (a, w) :: rest, k, v =>
    if k < a then (k, v) :: (a, w) :: rest
    else if a = k then (k, v) :: rest
    else (a, w) :: Memory.write rest k v

/-- The canonical form: addresses strictly rising. -/
abbrev Memory.wf {α : Type} (m : Memory α) : Prop := (m.map Prod.fst).Pairwise (· < ·)

/-- `ring[r]` (R26). -/
def State.ringAt (s : State) (r : Nat) : Option RingDesc := Memory.read s.ring r

/-- `strip[g]` (R28); no operation of the block reads it (20_memory.md R56). -/
def State.stripAt (s : State) (g : Nat) : Option Pixel := Memory.read s.strip g

/-- Record the outcome of an operation. -/
def State.report (s : State) (o : OpOutcome) : State := { s with outcome := o }

/-- The operation ends Ok (R15). -/
def complete (r : OpResult) (s : State) : Outcome := .next (s.report (.ok r))

/-- FAULT ENTRY, `raise` of 00_scope.md R14: "no register is written, strip[] is not written, out is
unchanged" and the outcome is returned to the host (R158). There is nothing to return from: the next
operation is accepted normally (R159). -/
def raise (e : ErrorKind) (s : State) : Outcome := .next (s.report (.fault e))

/-- `Emit` (R14): the frame goes to the end of `out`. -/
def State.emit (s : State) (frame : List Byte) : State := { s with out := s.out ++ frame }

/-- The working registers of unit E (R30). -/
def State.setWork (s : State) (crc : Word) (pos left : Nat) : State := { s with crc := crc, pos := pos, left := left }

/-- The writes of a RALLOC (R133): the entry `ring[nrings]`, the cursor and the number of rings. -/
def State.addRing (s : State) (n : Nat) (rev : Bool) : State :=
  { s with ring := Memory.write s.ring s.nrings { offset := s.cursor, count := n, reverse := rev },
           cursor := s.cursor + n, nrings := s.nrings + 1 }

/-- `strip[g] <- color`, one `setPixelColor` (R14, R135). -/
def State.setPixel (s : State) (g : Nat) (color : Pixel) : State := { s with strip := Memory.write s.strip g color }

/-- `MemWrite(g, 1, color)` (R14): an address outside the strip space does not exist (20_memory.md R51). -/
def memWrite (g : Nat) (color : Pixel) (s : State) : Outcome :=
  if g < s.cfg.stripLen then complete .unit (s.setPixel g color) else .fault (.stripAddressOutside g)

/-- The end of an encode operation (40_encoder.md R104, R105): the trailer is the body's checksum, the whole
frame is emitted in one piece (R106), and the working registers are left as the phases of R107 leave them. -/
def emitBody (body : List Byte) (s : State) : Outcome :=
  let frame := body ++ le32 (crc32 s.cfg.crc body)
  complete (.frame frame) ((s.emit frame).setWork (crcRegister s.cfg.crc body) frame.length 0)

end Sys2Proof.Machine
end

