-- ==== Sys2Proof/Machine/Operands.lean ====
section
/-!
DEFINITION. Machine/Operands.lean: the operand forms. The pixel operand of ENCPIX through the channel order
(10_state.md R23, 40_encoder.md R103), and the ring operands of the mapper: the ring id, the local index and
the mapping (41_mapper.md R130, R131, R134).
-/

namespace Sys2Proof.Machine

/-- `pos(k) = ORDER[2k+1:2k]`: the position at which colour channel `k` is sent (R23). -/
def orderPos (order : Byte) (k : Nat) : Nat := bits order.toNat (2 * k + 1) (2 * k)

/-- The byte with the four given positions (30_encoding.md R74). -/
def orderByte (ri gi bi wi : Nat) : Byte := BitVec.ofNat 8 (ri + 4 * gi + 16 * bi + 64 * wi)

/-- Whether the four fields are pairwise different (R23). -/
def orderLegal (order : Byte) : Bool :=
  decide ([orderPos order 0, orderPos order 1, orderPos order 2, orderPos order 3].Nodup)

/-- The colour channel sent at position `j`, `inv` of R103; for a legal order. -/
def orderInv (order : Byte) (j : Nat) : Nat :=
  if orderPos order 0 = j then 0 else if orderPos order 1 = j then 1 else if orderPos order 2 = j then 2 else 3

/-- `Permute(ORDER, p)` (R103): `q[j] = p.inv(j)`. Used for a legal order only. -/
def permute (order : Byte) (p : Pixel) : Quad :=
  ⟨p.channel (orderInv order 0), p.channel (orderInv order 1), p.channel (orderInv order 2), p.channel (orderInv order 3)⟩

/-- The pixel a payload group stands for: colour channel `k` is at `pos(k)` (R79). -/
def unpermute (order : Byte) (q : Quad) : Pixel :=
  ⟨q.at (orderPos order 0), q.at (orderPos order 1), q.at (orderPos order 2), q.at (orderPos order 3)⟩

/-- The pixels of a received payload (R79); a free value where the order byte is no permutation (R80 (e)). -/
def readPixels (order : Byte) (payload : List Quad) : List Pixel :=
  if orderLegal order then payload.map (unpermute order) else Config.freePixels order payload

/-- `Map(d, i)` (R130), for `i < d.count`. -/
def mapIndex (d : RingDesc) (i : Nat) : Nat :=
  if d.reverse then d.offset + (d.count - 1 - i) else d.offset + i

/-- `Unmap(d, g)` (R131), for `d.offset <= g < d.offset + d.count`. -/
def unmapIndex (d : RingDesc) (g : Nat) : Nat :=
  if d.reverse then d.count - 1 - (g - d.offset) else g - d.offset

/-- A ring operand: the descriptor of a constructed ring; an unknown ring is Refused (R134 to R136). -/
def withRing (r : Nat) (s : State) (k : RingDesc → Outcome) : Outcome :=
  if s.nrings ≤ r then .refused (.noSuchRing r)
  else match s.ringAt r with
    | none => .fault (.ringHoldsNoValue r)
    | some d => k d

/-- A ring and a local index: the global index, or IndexError (R134, R135). -/
def withIndex (r i : Nat) (s : State) (k : Nat → Outcome) : Outcome :=
  withRing r s fun d => if d.count ≤ i then raise (.indexError r i) s else k (mapIndex d i)

end Sys2Proof.Machine
end

