-- ==== Sys2Proof/Machine/Encoder.lean ====
section
/-!
DEFINITION. Machine/Encoder.lean: unit E, the two encode operations (40_encoder.md R104, R105).
-/

namespace Sys2Proof.Machine

/-- ENCPIX (R104). "With any other value the configuration is ill-formed and every ENCPIX is Refused"
(10_state.md R23), before its checks (DEDUCED, safe, log 16); then check 1 and check 2 in the order of R157. -/
def execEncpix (c : Byte) (pixels : List Pixel) (s : State) : Outcome :=
  if orderLegal s.cfg.order = false then .refused .orderNotPermutation
  else if c = Config.chLatch then raise (.invalidChannelError c) s
  else if Config.maxCount < pixels.length then raise (.encodingError pixels.length) s
  else emitBody (pixelBody s.cfg.magic c s.cfg.order (pixels.map (permute s.cfg.order))) s

/-- ENCLATCH (R105). -/
def execEnclatch (s : State) : Outcome := emitBody (latchBody s.cfg.magic) s

end Sys2Proof.Machine
end

