-- ==== Sys2Proof/Machine/Frames.lean ====
section
/-!
DEFINITION. Machine/Frames.lean: the two wire-frame rows of the opcode table. "The block does not decode
frames" (30_encoding.md R80), so a frame changes nothing of the block; what the spec gives for one is the
header parse and `CrcOk` (R79), which the frame reader reports (DESIGN CHOICE, log 9).
-/

namespace Sys2Proof.Machine

/-- What the reader reads from a PIXEL frame (R79). -/
def pixelReading (cfg : Config) (channel order : Byte) (payload : List Quad) (trailer : Word) : FrameReading :=
  { channel := channel, recType := Config.typePixel, elemCount := some Config.epp, order := some order,
    count := some payload.length, payload := payload, pixels := readPixels order payload, trailer := trailer,
    crcOk := crcOk cfg.crc (pixelBody cfg.magic channel order payload) trailer }

/-- What the reader reads from a LATCH frame (R79). -/
def latchReading (cfg : Config) (trailer : Word) : FrameReading :=
  { channel := Config.chLatch, recType := Config.typeLatch, elemCount := none, order := none, count := none,
    payload := [], pixels := [], trailer := trailer, crcOk := crcOk cfg.crc (latchBody cfg.magic) trailer }

/-- PIXEL (R72, R79). A term that is no frame has no meaning (R80). -/
def execPixel (channel order : Byte) (payload : List Quad) (trailer : Word) (s : State) : Outcome :=
  if Instr.wellFormed (.pixel channel order payload trailer) then
    complete (.reading (pixelReading s.cfg channel order payload trailer)) s
  else .refused .undefinedFrame

/-- LATCH (R73, R79). -/
def execLatch (trailer : Word) (s : State) : Outcome := complete (.reading (latchReading s.cfg trailer)) s

end Sys2Proof.Machine
end

