-- ==== Sys2Proof/Machine/Mapper.lean ====
section
/-!
DEFINITION. Machine/Mapper.lean: unit M, the four mapper operations (41_mapper.md R133 to R136).
-/

namespace Sys2Proof.Machine

/-- RALLOC (R133): check 1, check 2 on the true sum, then all the writes. -/
def execRalloc (n : Nat) (rev : Bool) (s : State) : Outcome :=
  if s.nrings = s.cfg.ringCap then raise (.allocationError .tableFull) s
  else if s.cfg.stripLen < s.cursor + n then raise (.allocationError .stripFull) s
  else complete (.ring s.nrings s.cursor) (s.addRing n rev)

/-- RMAP (R134). -/
def execRmap (r i : Nat) (s : State) : Outcome := withIndex r i s fun g => complete (.index g) s

/-- RSET (R135). -/
def execRset (r i : Nat) (color : Pixel) (s : State) : Outcome := withIndex r i s fun g => memWrite g color s

/-- RNUM (R136). -/
def execRnum (r : Nat) (s : State) : Outcome := withRing r s fun d => complete (.count d.count) s

end Sys2Proof.Machine
end

