-- ==== Sys2Proof/Machine/Dispatch.lean ====
section
/-!
DEFINITION. Machine/Dispatch.lean: one arm per row of the opcode table.
-/

namespace Sys2Proof.Machine

def exec (i : Instr) (s : State) : Host.Outcome State Fault Refusal :=
  match i with
  | .pixel channel order payload trailer => Sys2Proof.Machine.execPixel channel order payload trailer s
  | .latch trailer => Sys2Proof.Machine.execLatch trailer s
  | .encpix c pixels => Sys2Proof.Machine.execEncpix c pixels s
  | .enclatch => Sys2Proof.Machine.execEnclatch s
  | .ralloc n rev => Sys2Proof.Machine.execRalloc n rev s
  | .rmap r idx => Sys2Proof.Machine.execRmap r idx s
  | .rset r idx color => Sys2Proof.Machine.execRset r idx color s
  | .rnum r => Sys2Proof.Machine.execRnum r s

end Sys2Proof.Machine
end

