-- ==== Sys2Proof/Machine/Fetch.lean ====
section
/-!
DEFINITION. Machine/Fetch.lean: which instruction comes next. There is no program counter and nothing is
fetched from a memory (10_state.md R31, 20_memory.md R63): the host's operations come in the order issued
(R20), and when none is waiting the frame reader looks at the bytes presented to it (30_encoding.md R78).
-/

namespace Sys2Proof.Machine

/-- What the machine finds to do. -/
inductive Fetched where
  /-- An instruction, and the state with it taken from its queue. -/
  | instr (i : Instr) (s : State)
  /-- Nothing to do: no operation, and no whole frame. -/
  | wait
  /-- The presented bytes are no frame. -/
  | rejected (why : Reject)
deriving DecidableEq, Repr

/-- The state with its oldest waiting operations replaced. -/
def State.setOps (s : State) (ops : List Instr) : State := { s with ops := ops }

/-- The state with the bytes presented to the reader replaced. -/
def State.setRx (s : State) (rx : List Byte) : State := { s with rx := rx }

/-- Operations before presented bytes (DESIGN CHOICE, log 9). -/
def fetch (s : State) : Fetched :=
  match s.ops with
  | i :: rest => .instr i (s.setOps rest)
  | [] =>
    match decode s.cfg.magic s.rx with
    | .needMore => .wait
    | .rejected why => .rejected why
    | .frame i rest => .instr i (s.setRx rest)

end Sys2Proof.Machine
end

