-- ==== Sys2Proof/Machine/Step.lean ====
section
/-!
DEFINITION. Machine/Step.lean: one step of the machine, and the placing of a table word where the next step
reads it.
-/

namespace Sys2Proof.Machine

/-- One step: the next instruction is executed; with nothing to do the state stays (60_exceptions.md R156);
bytes that are no frame are refused (30_encoding.md R78; DEDUCED, safe, log 11). -/
def step (s : State) : Host.Outcome State Fault Refusal :=
  match fetch s with
  | .instr i t => exec i t
  | .wait => .next s
  | .rejected why => .refused (.notAFrame why)

/-- The word's bytes are presented to the frame reader, with no operation waiting before them (DESIGN CHOICE, log 18). -/
def State.withFetchWord (s : State) (nbits w : Nat) : State :=
  (s.setOps []).setRx (tableFrame s.cfg.magic nbits w)

end Sys2Proof.Machine
end

