-- ==== Sys2Proof/Machine/Macros.lean ====
section
/-!
DEFINITION. Machine/Macros.lean: the pseudo-operations TICK and SHUTDOWN (30_encoding.md R84): the operations
of the block they expand to, without the host's writes and the strip's `show()` (DEDUCED, log 19).
-/

namespace Sys2Proof.Machine

/-- The buffers of a tick "in a deterministic channel order (ascending channel id)" (70_reset_and_hazards.md
R186), in whatever order they are given. Of two buffers with one channel id the spec says nothing (N12, U17):
both are kept, in the order given (DESIGN CHOICE, unsafe for claims about such a tick, log 21). -/
def byChannel {α : Type} (buffers : List (Byte × α)) : List (Byte × α) :=
  buffers.insertionSort fun a b => a.1.toNat ≤ b.1.toNat

/-- The write discipline of a tick (70_reset_and_hazards.md R184): all pixel-data frames, then one latch. -/
def framesThenLatch (buffers : List (Byte × List Pixel)) : List Instr :=
  buffers.map (fun b => Instr.encpix b.1 b.2) ++ [.enclatch]

/-- `TICK` (R84, R186): each mutated buffer's frame, by ascending channel, then one latch frame; with no mutated
buffer "a lone latch frame". -/
def tick (buffers : List (Byte × List Pixel)) : List Instr :=
  framesThenLatch (byChannel buffers)

/-- The pixel (0,0,0,0). -/
def black : Pixel := ⟨0#8, 0#8, 0#8, 0#8⟩

/-- RSET of (0,0,0,0) at every local index of ring `r`. -/
def clearRing (s : State) (r : Nat) : List Instr :=
  match s.ringAt r with
  | some d => (List.range d.count).map fun i => Instr.rset r i black
  | none => []

/-- `SHUTDOWN` (R84, R188): the tick of all-zero buffers, given as channel and length and sent "for every channel
in ascending order", then every pixel of every ring of the state. -/
def shutdown (s : State) (buffers : List (Byte × Nat)) : List Instr :=
  tick (buffers.map fun b => (b.1, List.replicate b.2 black)) ++ (List.range s.nrings).flatMap (clearRing s)

end Sys2Proof.Machine
end

