-- ==== Sys2Proof/Machine/Serial.lean ====
section
/-!
DEFINITION. Machine/Serial.lean: the byte-serial refinement of unit E (40_encoder.md R107): the phases CHECK,
INIT, HEADER, PAYLOAD, TRAILER, DONE over the working registers `crc`, `pos`, `left` (10_state.md R30), one
output byte at a time. The transaction-level rules govern (00_scope.md R10); `step` does not use this file
(DESIGN CHOICE, safe, log 20).
-/

namespace Sys2Proof.Machine

/-- The phases, in the order in which they follow one another (R107). -/
inductive Phase where
  | check
  | init
  | header
  | payload
  | trailer
  | done
  /-- "On a fault the operation ends here". -/
  | faulted
deriving DecidableEq, Repr

/-- The rank of a phase; "the phases follow one another in this order only". -/
def Phase.rank : Phase → Nat
  | .check => 0
  | .init => 1
  | .header => 2
  | .payload => 3
  | .trailer => 4
  | .done => 5
  | .faulted => 5

/-- The two encode operations. -/
inductive Job where
  | encpix (c : Byte) (pixels : List Pixel)
  | enclatch
deriving DecidableEq, Repr

/-- The datapath while one frame is being produced: the working registers, the frame so far, and what the
phases have still to produce. -/
structure Serial where
  phase  : Phase
  crc    : Word
  pos    : Nat
  left   : Nat
  /-- Header bytes still to produce. -/
  header : List Byte
  /-- Pixels of the operand not read yet. -/
  pixels : List Pixel
  /-- Bytes of the pixel last read still to produce. -/
  lane   : List Byte
  /-- Trailer bytes still to produce. -/
  tail   : List Byte
  /-- The bytes produced. -/
  frame  : List Byte
  error  : Option ErrorKind
deriving DecidableEq, Repr

/-- An operation begins, with whatever the working registers hold. -/
def Serial.start (crc : Word) (pos left : Nat) : Serial :=
  { phase := .check, crc := crc, pos := pos, left := left, header := [], pixels := [], lane := [], tail := [],
    frame := [], error := none }

/-- "produce b" in HEADER and PAYLOAD. -/
def Serial.produce (cfg : Config) (m : Serial) (b : Byte) : Serial :=
  { m with frame := m.frame ++ [b], crc := crcStep cfg.crc m.crc b, pos := m.pos + 1 }

/-- "produce b" in TRAILER: the checksum register is not updated. -/
def Serial.produceTail (m : Serial) (b : Byte) : Serial :=
  { m with frame := m.frame ++ [b], pos := m.pos + 1 }

/-- Phase CHECK (R107): the two checks of R104, before anything is produced. -/
def Serial.check (job : Job) (m : Serial) : Serial :=
  match job with
  | .encpix c pixels =>
    if c = Config.chLatch then { m with phase := .faulted, error := some (.invalidChannelError c) }
    else if Config.maxCount < pixels.length then
      { m with phase := .faulted, error := some (.encodingError pixels.length) }
    else { m with phase := .init }
  | .enclatch => { m with phase := .init }

/-- Phase INIT (R107): the working registers are loaded. -/
def Serial.init (cfg : Config) (job : Job) (m : Serial) : Serial :=
  match job with
  | .encpix c pixels =>
    { m with phase := .header, crc := cfg.crc.init, pos := 0, left := pixels.length, pixels := pixels,
             header := cfg.magic.bytes ++ [c, Config.typePixel, Config.epp, cfg.order] ++ le16 pixels.length }
  | .enclatch =>
    { m with phase := .header, crc := cfg.crc.init, pos := 0, left := 0, pixels := [],
             header := cfg.magic.bytes ++ [Config.chLatch, Config.typeLatch] }

/-- One step of phase HEADER. -/
def Serial.headerStep (cfg : Config) (m : Serial) : Serial :=
  match m.header with
  | b :: rest => Serial.produce cfg { m with header := rest } b
  | [] => { m with phase := .payload }

/-- One step of phase PAYLOAD: a byte of the pixel at hand; after its last byte `left` falls by 1; with no
pixel at hand the next is read while `left > 0`, else the trailer is formed. -/
def Serial.payloadStep (cfg : Config) (m : Serial) : Serial :=
  match m.lane with
  | [b] => Serial.produce cfg { m with lane := [], left := m.left - 1 } b
  | b :: rest => Serial.produce cfg { m with lane := rest } b
  | [] =>
    match m.left, m.pixels with
    | 0, _ => { m with phase := .trailer, tail := le32 (crcFinish cfg.crc m.crc) }
    | _ + 1, [] => { m with phase := .trailer, tail := le32 (crcFinish cfg.crc m.crc) }
    | _ + 1, p :: rest => { m with lane := (permute cfg.order p).bytes, pixels := rest }

/-- One step of phase TRAILER. -/
def Serial.tailStep (m : Serial) : Serial :=
  match m.tail with
  | b :: rest => Serial.produceTail { m with tail := rest } b
  | [] => { m with phase := .done }

/-- One step of the datapath: at most one byte is produced. DONE and a fault are ends. -/
def Serial.step (cfg : Config) (job : Job) (m : Serial) : Serial :=
  match m.phase with
  | .check => m.check job
  | .init => m.init cfg job
  | .header => m.headerStep cfg
  | .payload => m.payloadStep cfg
  | .trailer => m.tailStep
  | .done => m
  | .faulted => m

/-- `k` steps of the datapath. -/
def Serial.run (cfg : Config) (job : Job) : Nat → Serial → Serial
  | 0, m => m
  | k + 1, m => Serial.run cfg job k (m.step cfg job)

/-- How many steps a frame takes: CHECK and INIT one each, a step for every byte, one for every pixel read and
one to leave each of HEADER, PAYLOAD and TRAILER. -/
def Job.steps : Job → Nat
  | .encpix _ pixels => 19 + 5 * pixels.length
  | .enclatch => 15

end Sys2Proof.Machine
end

