-- ==== Sys2Proof/Safety.lean ====
section
/-!
DEFINITION. Safety.lean: the vocabulary of claims: the invariant of unit M's registers (10_state.md R27), when
the output log reads as frames (40_encoder.md R112), what two states share, and running a list of operations.
-/

namespace Sys2Proof.Machine

/-- `ring[r].count`, 0 for an entry that holds no value. -/
def State.ringCount (s : State) (r : Nat) : Nat :=
  match s.ringAt r with
  | some d => d.count
  | none => 0

/-- The invariants of R27 (a) to (d) with what R25, R26, R28 and 20_memory.md R58 say of the registers and
the strip, and the canonical form of both memories. -/
structure State.Inv (s : State) : Prop where
  ringWf   : Memory.wf s.ring
  stripWf  : Memory.wf s.strip
  /-- `nrings <= NRINGS` (R25). -/
  capacity : s.nrings ≤ s.cfg.ringCap
  /-- An entry holds a value exactly when `r < nrings` (R26). -/
  valid    : ∀ r, (s.ringAt r).isSome = decide (r < s.nrings)
  /-- R27 (a). -/
  first    : ∀ d, s.ringAt 0 = some d → d.offset = 0
  /-- R27 (b). -/
  next     : ∀ r d e, s.ringAt r = some d → s.ringAt (r + 1) = some e → e.offset = d.offset + d.count
  /-- R27 (c), first half. -/
  total    : s.cursor = ((List.range s.nrings).map s.ringCount).sum
  /-- R27 (c), second half. -/
  last     : ∀ r d, s.nrings = r + 1 → s.ringAt r = some d → s.cursor = d.offset + d.count
  /-- R27 (d). -/
  bound    : s.cursor ≤ s.cfg.stripLen
  /-- Nothing at or above the cursor is written (R58). -/
  written  : ∀ g, s.cursor ≤ g → s.stripAt g = none

/-- A frame as the encoder of this configuration makes it: well-formed, its order byte ORDER, and its trailer
the checksum of its body (R72, R73, R77). -/
def madeBy (cfg : Config) : Instr → Prop
  | .pixel channel order payload trailer =>
    channel.toNat ≤ Config.chMax ∧ payload.length ≤ Config.maxCount ∧ order = cfg.order ∧
      trailer = crc32 cfg.crc (pixelBody cfg.magic channel order payload)
  | .latch trailer => trailer = crc32 cfg.crc (latchBody cfg.magic)
  | .encpix _ _ => False
  | .enclatch => False
  | .ralloc _ _ => False
  | .rmap _ _ => False
  | .rset _ _ _ => False
  | .rnum _ => False

/-- The output log reads, from its beginning and with nothing left over, as frames this encoder makes (R112). -/
def State.OutReads (s : State) : Prop :=
  ∃ frames, parseStream s.cfg.magic s.out = some frames ∧ ∀ f ∈ frames, madeBy s.cfg f

/-- Unit M's registers and the strip are the same, address by address. -/
def sameUnitM (s t : State) : Prop :=
  t.cursor = s.cursor ∧ t.nrings = s.nrings ∧ (∀ r, t.ringAt r = s.ringAt r) ∧ (∀ g, t.stripAt g = s.stripAt g)

/-- Unit E's log and working registers are the same. -/
def sameUnitE (s t : State) : Prop :=
  t.out = s.out ∧ t.crc = s.crc ∧ t.pos = s.pos ∧ t.left = s.left

/-- The configuration and what waits to be executed are the same. -/
def sameInput (s t : State) : Prop :=
  t.cfg = s.cfg ∧ t.ops = s.ops ∧ t.rx = s.rx

/-- Running a list of operations one after the other, stopping at the first stop. An error kind is no stop: the
operations after it are run, as the block accepts them (60_exceptions.md R159). Whether the host issues them
after a validation fault within a tick is not stated (70_reset_and_hazards.md R187, N10, U17); here it does
(DESIGN CHOICE, unsafe for claims about a tick with such a fault, log 22). -/
def runAll : List Instr → State → Outcome
  | [], s => .next s
  | i :: rest, s =>
    match exec i s with
    | .next t => runAll rest t
    | .fault r => .fault r
    | .refused r => .refused r

/-- The operands name only what exists: the ring of RMAP, RSET, RNUM is constructed, the frame of PIXEL is a
frame, and ORDER is legal for ENCPIX (00_scope.md R15: what is not Refused). -/
def meaningful (s : State) : Instr → Prop
  | .pixel channel order payload trailer => Instr.wellFormed (.pixel channel order payload trailer) = true
  | .latch _ => True
  | .encpix _ _ => orderLegal s.cfg.order = true
  | .enclatch => True
  | .ralloc _ _ => True
  | .rmap r _ => r < s.nrings
  | .rset r _ _ => r < s.nrings
  | .rnum r => r < s.nrings

end Sys2Proof.Machine
end

