-- ==== Sys2Proof/Certificates/Slice0/Obligations.lean ====
section
/-!
DEFINITION. Certificates/Slice0/Obligations.lean: the statements for the provers. A statement about a free
value holds for every value of it; a statement about the configuration holds for every configuration, since
`cfg` is a field of the state. Laws the spec marks [derived: ...] have basis 'derived'.
-/

open Sys2Proof Sys2Proof.Machine

/-! ## Bytes, order, checksum -/

/-- 00_scope.md R13: the four functions and that they invert each other. -/
def Obligations.LittleEndianFieldsInvert : Prop :=
  (∀ n, n < 65536 → ∃ a b : Byte, le16 n = [a, b] ∧ a.toNat = n % 256 ∧ b.toNat = n / 256 ∧ un16 a b = n) ∧
  (∀ w : Word, ∃ a b c d : Byte, le32 w = [a, b, c, d] ∧ a.toNat = bits w.toNat 7 0 ∧ b.toNat = bits w.toNat 15 8 ∧
    c.toNat = bits w.toNat 23 16 ∧ d.toNat = bits w.toNat 31 24 ∧ un32 a b c d = w) ∧
  (∀ a b : Byte, un16 a b = a.toNat + 256 * b.toNat ∧ le16 (un16 a b) = [a, b]) ∧
  (∀ a b c d : Byte, (un32 a b c d).toNat = a.toNat + 256 * b.toNat + 65536 * c.toNat + 16777216 * d.toNat ∧
    le32 (un32 a b c d) = [a, b, c, d])

/-- 10_state.md R23 and 30_encoding.md R74 without the refusal (EncpixIsRefusedUnderAnIllegalOrder has it): the fields, the
assembly, which values are legal and how many. -/
def Obligations.OrderByteHasFourPositionFields : Prop :=
  (∀ order : Byte, orderPos order 0 = order.toNat % 4 ∧ orderPos order 1 = order.toNat / 4 % 4 ∧
    orderPos order 2 = order.toNat / 16 % 4 ∧ orderPos order 3 = order.toNat / 64 % 4) ∧
  (∀ order : Byte,
    orderByte (orderPos order 0) (orderPos order 1) (orderPos order 2) (orderPos order 3) = order) ∧
  (∀ order : Byte, orderLegal order = true ↔ ∀ j k, j < 4 → k < 4 → j ≠ k → orderPos order j ≠ orderPos order k) ∧
  ((List.range 256).filter fun v => orderLegal (BitVec.ofNat 8 v)).length = 24 ∧
  orderByte 0 1 2 3 = 0xE4#8 ∧ orderByte 1 0 2 3 = 0xE1#8 ∧ orderByte 1 2 0 3 = 0xC9#8 ∧ orderByte 3 2 1 0 = 0x1B#8

/-- 40_encoder.md R103. -/
def Obligations.PermutePlacesEveryColourChannel : Prop :=
  (∀ order : Byte, orderLegal order = true →
    (∀ (p : Pixel) (k : Nat), k < 4 → (permute order p).at (orderPos order k) = p.channel k) ∧
    (∀ p : Pixel, unpermute order (permute order p) = p) ∧
    (∀ q : Quad, permute order (unpermute order q) = q)) ∧
  (permute 0xE4#8 ⟨1#8, 2#8, 3#8, 4#8⟩ = ⟨1#8, 2#8, 3#8, 4#8⟩ ∧ permute 0xE1#8 ⟨1#8, 2#8, 3#8, 4#8⟩ = ⟨2#8, 1#8, 3#8, 4#8⟩ ∧
   permute 0xC9#8 ⟨1#8, 2#8, 3#8, 4#8⟩ = ⟨3#8, 1#8, 2#8, 4#8⟩ ∧ permute 0x1B#8 ⟨1#8, 2#8, 3#8, 4#8⟩ = ⟨4#8, 3#8, 2#8, 1#8⟩)

/-- 40_encoder.md R100, written out from its pseudocode. -/
def Obligations.StandardChecksumIsTheReflectedOne : Prop :=
  ∀ s : List Byte, crc32 CrcParams.standard s =
    s.foldl (fun c b => (fun x : Word => if x.getLsbD 0 then (x >>> 1) ^^^ 0xEDB88320#32 else x >>> 1)^[8]
      (c ^^^ b.setWidth 32)) 0xFFFFFFFF#32 ^^^ 0xFFFFFFFF#32

/-- 40_encoder.md R102: its values, and the residue, which the spec has from general knowledge (K3). -/
def Obligations.ChecksumValuesAndResidue : Prop :=
  crc32 .standard [] = 0x00000000#32 ∧ crc32 .standard [0x00#8] = 0xD202EF8D#32 ∧
  crc32 .standard [0x01#8] = 0xA505DF1B#32 ∧ crc32 .standard [0xFF#8] = 0xFF000000#32 ∧
  crc32 .standard [0x61#8] = 0xE8B7BE43#32 ∧
  crc32 .standard [0x31#8, 0x32#8, 0x33#8, 0x34#8, 0x35#8, 0x36#8, 0x37#8, 0x38#8, 0x39#8] = 0xCBF43926#32 ∧
  crc32 .standard [0x55#8, 0x50#8, 0x58#8, 0x4C#8, 0xFF#8, 0x02#8] = 0xDF81389B#32 ∧
  ∀ b : List Byte, crc32 .standard (b ++ le32 (crc32 .standard b)) = 0x2144DF1C#32

/-! ## Frames: encoding and decoding -/

/-- Frames written out byte by byte from 30_encoding.md R72 and R73 (vectors V10, V15, V17). -/
def Obligations.WrittenOutFramesDecode : Prop :=
  decode Config.defaultMagic [0x55#8, 0x50#8, 0x58#8, 0x4C#8, 0xFF#8, 0x02#8, 0x9B#8, 0x38#8, 0x81#8, 0xDF#8] =
    .frame (.latch 0xDF81389B#32) [] ∧
  decode Config.defaultMagic [0x55#8, 0x50#8, 0x58#8, 0x4C#8, 0x00#8, 0x01#8, 0x04#8, 0xC9#8, 0x01#8, 0x00#8,
      0x03#8, 0x01#8, 0x02#8, 0x04#8, 0x9A#8, 0x3C#8, 0x78#8, 0xBA#8] =
    .frame (.pixel 0#8 0xC9#8 [⟨3#8, 1#8, 2#8, 4#8⟩] 0xBA783C9A#32) [] ∧
  decode Config.defaultMagic [0x55#8, 0x50#8, 0x58#8, 0x4C#8, 0x07#8, 0x01#8, 0x04#8, 0xE1#8, 0x02#8, 0x00#8,
      0x22#8, 0x11#8, 0x33#8, 0x44#8, 0xBB#8, 0xAA#8, 0xCC#8, 0xDD#8, 0x54#8, 0x41#8, 0x59#8, 0xE4#8] =
    .frame (.pixel 7#8 0xE1#8 [⟨0x22#8, 0x11#8, 0x33#8, 0x44#8⟩, ⟨0xBB#8, 0xAA#8, 0xCC#8, 0xDD#8⟩] 0xE4594154#32) []

/-- The decision table of `FrameLen` (30_encoding.md R78) by positions in the sequence, and the law that stands
below it there: the answer on a frame does not depend on what follows. -/
def Obligations.FrameLenFollowsItsTable : Prop :=
  ∀ (magic : Quad) (s : List Byte),
    (s.length < 6 → frameLen magic s = .needMore) ∧
    (6 ≤ s.length → s.take 4 ≠ magic.bytes → frameLen magic s = .notAFrame .wrongMagic) ∧
    (6 ≤ s.length → s.take 4 = magic.bytes → byteAt s 5 = 2#8 → byteAt s 4 = 255#8 → frameLen magic s = .len 10) ∧
    (6 ≤ s.length → s.take 4 = magic.bytes → byteAt s 5 = 1#8 → (byteAt s 4).toNat ≤ 254 →
      (s.length < 10 → frameLen magic s = .needMore) ∧
      (10 ≤ s.length → byteAt s 6 ≠ 4#8 → frameLen magic s = .notAFrame .elementCount) ∧
      (10 ≤ s.length → byteAt s 6 = 4#8 → frameLen magic s = .len (14 + 4 * un16 (byteAt s 8) (byteAt s 9)))) ∧
    (6 ≤ s.length → s.take 4 = magic.bytes → ¬(byteAt s 5 = 2#8 ∧ byteAt s 4 = 255#8) →
      ¬(byteAt s 5 = 1#8 ∧ (byteAt s 4).toNat ≤ 254) → frameLen magic s = .notAFrame .channelType) ∧
    (∀ (i : Instr) (f : List Byte), i.wellFormed = true → encode magic i = some f →
      frameLen magic (f ++ s) = .len f.length)

/-- Every frame, with every operand at every value its format admits, is read back from its bytes, whatever
follows them (30_encoding.md R72, R73, R78, R79); an operation has no bytes (R83). -/
def Obligations.DecodeOfEncodeIsTheFrame : Prop :=
  ∀ (magic : Quad) (i : Instr), (encode magic i).isSome = i.isFrame ∧
    ∀ (f rest : List Byte), i.wellFormed = true → encode magic i = some f → decode magic (f ++ rest) = .frame i rest

/-- What decodes is a well-formed frame and its bytes are those read, so no two byte sequences mean one frame. -/
def Obligations.EncodeOfDecodeIsTheBytes : Prop :=
  ∀ (magic : Quad) (s : List Byte) (i : Instr) (rest : List Byte), decode magic s = .frame i rest →
    i.wellFormed = true ∧ i.isFrame = true ∧ ∃ f, encode magic i = some f ∧ f ++ rest = s

/-! ## Unit E -/

/-- 40_encoder.md R104: its checks in their order, then the frame; and the refusal where ORDER is no permutation
and neither check fails. (Which comes first when a check fails too is EncpixIsRefusedUnderAnIllegalOrder.) -/
def Obligations.EncpixFollowsItsRule : Prop :=
  ∀ (s : State) (c : Byte) (pixels : List Pixel),
    (orderLegal s.cfg.order = true →
      if c = 255#8 then exec (.encpix c pixels) s = .next (s.report (.fault (.invalidChannelError c)))
      else if 65535 < pixels.length then
        exec (.encpix c pixels) s = .next (s.report (.fault (.encodingError pixels.length)))
      else ∃ t body frame, exec (.encpix c pixels) s = .next t ∧
        body = s.cfg.magic.bytes ++ [c, 1#8, 4#8, s.cfg.order] ++
          [BitVec.ofNat 8 (pixels.length % 256), BitVec.ofNat 8 (pixels.length / 256)] ++
          pixels.flatMap (fun p => (permute s.cfg.order p).bytes) ∧
        frame = body ++ le32 (crc32 s.cfg.crc body) ∧
        t.outcome = .ok (.frame frame) ∧ t.out = s.out ++ frame ∧ sameUnitM s t ∧ sameInput s t) ∧
    (orderLegal s.cfg.order = false → c ≠ 255#8 → pixels.length ≤ 65535 →
      exec (.encpix c pixels) s = .refused .orderNotPermutation)

/-- "the configuration is ill-formed and every ENCPIX is Refused" (10_state.md R23), also one that a check of its
own would fault: that precedence is the model's reading (DEDUCED, log 16). -/
def Obligations.EncpixIsRefusedUnderAnIllegalOrder : Prop :=
  ∀ (s : State) (c : Byte) (pixels : List Pixel),
    exec (.encpix c pixels) s = .refused .orderNotPermutation ↔
      ∃ j k, j < 4 ∧ k < 4 ∧ j ≠ k ∧ orderPos s.cfg.order j = orderPos s.cfg.order k

/-- 40_encoder.md R105. -/
def Obligations.EnclatchFollowsItsRule : Prop :=
  ∀ s : State, ∃ t body frame, exec .enclatch s = .next t ∧
    body = s.cfg.magic.bytes ++ [255#8, 2#8] ∧ frame = body ++ le32 (crc32 s.cfg.crc body) ∧ frame.length = 10 ∧
    t.outcome = .ok (.frame frame) ∧ t.out = s.out ++ frame ∧ sameUnitM s t ∧ sameInput s t

/-- What an encode operation leaves in the working registers: what DONE leaves (40_encoder.md R101, R107; their
place in the transaction-level state is the model's, log 13). -/
def Obligations.EncodeLeavesTheWorkingRegisters : Prop :=
  ∀ (s t : State) (i : Instr) (f : List Byte), exec i s = .next t → t.outcome = .ok (.frame f) →
    t.pos = f.length ∧ t.left = 0 ∧ t.crc = crcRegister s.cfg.crc (f.take (f.length - 4)) ∧
    trailerOf f f.length = crcFinish s.cfg.crc t.crc

/-- The length law, 40_encoder.md section 4. -/
def Obligations.FrameLengthLaw : Prop :=
  (∀ (s : State) (c : Byte) (pixels : List Pixel), orderLegal s.cfg.order = true → c.toNat ≤ 254 →
    pixels.length ≤ 65535 →
    ∃ t f, exec (.encpix c pixels) s = .next t ∧ t.outcome = .ok (.frame f) ∧ f.length = 14 + 4 * pixels.length) ∧
  (∀ s : State, ∃ t f, exec .enclatch s = .next t ∧ t.outcome = .ok (.frame f) ∧ f.length = 10)

/-- The checksum law, 40_encoder.md section 4: of every frame any instruction produces. -/
def Obligations.FrameChecksumLaw : Prop :=
  ∀ (s t : State) (i : Instr) (f : List Byte), exec i s = .next t → t.outcome = .ok (.frame f) →
    trailerOf f f.length = crc32 s.cfg.crc (f.take (f.length - 4))

/-- The re-parse law, 40_encoder.md section 4. -/
def Obligations.FrameReparseLaw : Prop :=
  (∀ (s t : State) (c : Byte) (pixels : List Pixel) (f : List Byte),
    exec (.encpix c pixels) s = .next t → t.outcome = .ok (.frame f) →
    f.take 4 = s.cfg.magic.bytes ∧ byteAt f 4 = c ∧ byteAt f 5 = 1#8 ∧ byteAt f 6 = 4#8 ∧ byteAt f 7 = s.cfg.order ∧
    un16 (byteAt f 8) (byteAt f 9) = pixels.length ∧
    ∀ (n k : Nat) (p : Pixel), k < 4 → pixels[n]? = some p →
      byteAt f (10 + 4 * n + orderPos s.cfg.order k) = p.channel k) ∧
  (∀ (s t : State) (f : List Byte), exec .enclatch s = .next t → t.outcome = .ok (.frame f) →
    f.take 4 = s.cfg.magic.bytes ∧ byteAt f 4 = 255#8 ∧ byteAt f 5 = 2#8)

/-- Injectivity, 40_encoder.md section 4. -/
def Obligations.EncodingIsInjective : Prop :=
  (∀ (s s' t t' : State) (c c' : Byte) (p p' : List Pixel) (f : List Byte), s.cfg = s'.cfg →
    exec (.encpix c p) s = .next t → t.outcome = .ok (.frame f) →
    exec (.encpix c' p') s' = .next t' → t'.outcome = .ok (.frame f) → c = c' ∧ p = p') ∧
  (∀ (s s' t t' : State) (c : Byte) (p : List Pixel) (f f' : List Byte), s.cfg = s'.cfg →
    exec (.encpix c p) s = .next t → t.outcome = .ok (.frame f) →
    exec .enclatch s' = .next t' → t'.outcome = .ok (.frame f') → f ≠ f')

/-- Purity (40_encoder.md R106): what an encode operation answers and appends depends on its operands and the
configuration alone. -/
def Obligations.EncodeOperationsArePure : Prop :=
  ∀ (s s' : State) (i : Instr), s.cfg = s'.cfg → (i = .enclatch ∨ ∃ c p, i = .encpix c p) →
    (∃ t t' x, exec i s = .next t ∧ exec i s' = .next t' ∧ t.outcome = t'.outcome ∧
      t.out = s.out ++ x ∧ t'.out = s'.out ++ x ∧ (t.outcome = .ok (.frame x) ∨ x = [])) ∨
    (exec i s = .refused .orderNotPermutation ∧ exec i s' = .refused .orderNotPermutation)

/-- Every step keeps the output log readable as frames of this encoder with good checksums, nothing left over
(the unique-parsing law of 40_encoder.md section 4). -/
def Obligations.OutputLogStaysReadable : Prop :=
  ∀ s t : State, s.OutReads → step s = .next t → t.OutReads

/-- The output log reads at reset, under every configuration. -/
def Obligations.OutputLogReadsAtReset : Prop :=
  State.reset.OutReads ∧ ∀ cfg : Config, (State.resetWith cfg).OutReads

/-- Unique parsing of `out`, 40_encoder.md section 4: an encode operation adds its own frame, operands and all,
to what a reader of the log reads. -/
def Obligations.EncodeAddsItsFrameToTheReading : Prop :=
  ∀ (s : State) (frames : List Instr), parseStream s.cfg.magic s.out = some frames →
    (∀ (c : Byte) (pixels : List Pixel), orderLegal s.cfg.order = true → c.toNat ≤ 254 → pixels.length ≤ 65535 →
      ∃ t payload trailer, exec (.encpix c pixels) s = .next t ∧
        parseStream t.cfg.magic t.out = some (frames ++ [.pixel c s.cfg.order payload trailer]) ∧
        payload.map (unpermute s.cfg.order) = pixels ∧
        trailer = crc32 s.cfg.crc (pixelBody s.cfg.magic c s.cfg.order payload)) ∧
    (∃ t trailer, exec .enclatch s = .next t ∧ parseStream t.cfg.magic t.out = some (frames ++ [.latch trailer]) ∧
      trailer = crc32 s.cfg.crc (latchBody s.cfg.magic))

/-- The byte-serial refinement (40_encoder.md R107): from any contents of the working registers, the datapath
ends in DONE with the frame of the transaction-level operation and the registers that operation leaves; a fault
is raised in CHECK with no byte produced. What counts as one step, and so the two step counts, is the model's
choice (DESIGN CHOICE, log 20). -/
def Obligations.SerialDatapathMakesTheSameFrame : Prop :=
  ∀ (s t : State) (crc : Word) (pos left : Nat),
    (∀ (c : Byte) (pixels : List Pixel) (f : List Byte), exec (.encpix c pixels) s = .next t →
      t.outcome = .ok (.frame f) →
      ∃ m, Serial.run s.cfg (.encpix c pixels) (19 + 5 * pixels.length) (Serial.start crc pos left) = m ∧
        m.phase = .done ∧ m.frame = f ∧ m.pos = 14 + 4 * pixels.length ∧ m.left = 0 ∧ m.crc = t.crc ∧
        m.pos = t.pos ∧ m.error = none) ∧
    (∀ f : List Byte, exec .enclatch s = .next t → t.outcome = .ok (.frame f) →
      ∃ m, Serial.run s.cfg .enclatch 15 (Serial.start crc pos left) = m ∧
        m.phase = .done ∧ m.frame = f ∧ m.pos = 10 ∧ m.left = 0 ∧ m.crc = t.crc ∧ m.pos = t.pos ∧ m.error = none) ∧
    (∀ (c : Byte) (pixels : List Pixel) (e : ErrorKind) (k : Nat), exec (.encpix c pixels) s = .next t →
      t.outcome = .fault e →
      ∃ m, Serial.run s.cfg (.encpix c pixels) (k + 1) (Serial.start crc pos left) = m ∧
        m.phase = .faulted ∧ m.frame = [] ∧ m.error = some e)

/-- "The phases follow one another in this order only" (40_encoder.md R107), in every state of the datapath:
no step goes back, a step that changes the phase goes to the next one or from CHECK to the fault, and a step
produces at most one byte, at the end of the frame. -/
def Obligations.SerialPhasesOnlyAdvance : Prop :=
  ∀ (cfg : Config) (job : Job) (m : Serial),
    ((m.step cfg job).phase = m.phase ∨ (m.step cfg job).phase.rank = m.phase.rank + 1 ∨
      (m.phase = .check ∧ (m.step cfg job).phase = .faulted)) ∧
    ((m.step cfg job).phase = .faulted → m.phase = .check ∨ m.phase = .faulted) ∧
    ((m.step cfg job).frame = m.frame ∨ ∃ b, (m.step cfg job).frame = m.frame ++ [b])

/-! ## The frame reader -/

/-- PIXEL (30_encoding.md R72, R79): a frame of the format is read; the pixels are those of the payload in the
declared order, a free value under an order byte that is no permutation (log 10); the block keeps its state
(R80; that the reader is part of the machine is the model's choice, log 9). A term that is no frame is refused. -/
def Obligations.PixelFrameIsRead : Prop :=
  ∀ (s : State) (channel order : Byte) (payload : List Quad) (trailer : Word),
    if channel.toNat ≤ 254 ∧ payload.length ≤ 65535 then
      ∃ t reading, exec (.pixel channel order payload trailer) s = .next t ∧ t.outcome = .ok (.reading reading) ∧
        reading.channel = channel ∧ reading.recType = 1#8 ∧ reading.elemCount = some 4#8 ∧
        reading.order = some order ∧ reading.count = some payload.length ∧ reading.payload = payload ∧
        (orderLegal order = true → reading.pixels = payload.map (unpermute order)) ∧ reading.trailer = trailer ∧
        (reading.crcOk = true ↔ trailer = crc32 s.cfg.crc (pixelBody s.cfg.magic channel order payload)) ∧
        sameUnitE s t ∧ sameUnitM s t ∧ sameInput s t
    else exec (.pixel channel order payload trailer) s = .refused .undefinedFrame

/-- LATCH (30_encoding.md R73, R79). -/
def Obligations.LatchFrameIsRead : Prop :=
  ∀ (s : State) (trailer : Word), ∃ t reading, exec (.latch trailer) s = .next t ∧
    t.outcome = .ok (.reading reading) ∧ reading.channel = 255#8 ∧ reading.recType = 2#8 ∧
    reading.trailer = trailer ∧ (reading.crcOk = true ↔ trailer = crc32 s.cfg.crc (latchBody s.cfg.magic)) ∧
    sameUnitE s t ∧ sameUnitM s t ∧ sameInput s t

/-- What the encoder produced, presented to the reader of the same machine, is read back whole in one step:
the channel, the count and the very pixels of the operand, with the checksum good. -/
def Obligations.ReaderRecoversTheEncodersOperands : Prop :=
  ∀ (s t : State) (c : Byte) (pixels : List Pixel) (f rest : List Byte),
    exec (.encpix c pixels) s = .next t → t.outcome = .ok (.frame f) →
    ∃ u reading, step ((t.setOps []).setRx (f ++ rest)) = .next u ∧ u.rx = rest ∧
      u.outcome = .ok (.reading reading) ∧ reading.channel = c ∧ reading.count = some pixels.length ∧
      reading.pixels = pixels ∧ reading.crcOk = true ∧ sameUnitE t u ∧ sameUnitM t u

/-! ## Unit M -/

/-- 41_mapper.md R130, with the width of 00_scope.md R8. -/
def Obligations.MapFollowsItsFormula : Prop :=
  ∀ (d : RingDesc) (i : Nat), i < d.count →
    (d.reverse = false → mapIndex d i = d.offset + i) ∧
    (d.reverse = true → mapIndex d i = d.offset + (d.count - 1 - i) ∧ mapIndex d i + i + 1 = d.offset + d.count) ∧
    ∀ cfg : Config, d.offset + d.count ≤ cfg.stripLen →
      mapIndex d i < cfg.stripLen ∧ d.offset + d.count < 2 ^ cfg.idxW

/-- The bijection law, 41_mapper.md section 1. -/
def Obligations.MapIsABijection : Prop :=
  ∀ d : RingDesc,
    (∀ i, i < d.count → d.offset ≤ mapIndex d i ∧ mapIndex d i < d.offset + d.count ∧ unmapIndex d (mapIndex d i) = i) ∧
    (∀ g, d.offset ≤ g → g < d.offset + d.count → unmapIndex d g < d.count ∧ mapIndex d (unmapIndex d g) = g) ∧
    (∀ i j, i < d.count → j < d.count → mapIndex d i = mapIndex d j → i = j)

/-- 41_mapper.md R133. -/
def Obligations.RallocFollowsItsRule : Prop :=
  ∀ (s : State) (n : Nat) (rev : Bool),
    if s.nrings = s.cfg.ringCap then
      exec (.ralloc n rev) s = .next (s.report (.fault (.allocationError .tableFull)))
    else if s.cfg.stripLen < s.cursor + n then
      exec (.ralloc n rev) s = .next (s.report (.fault (.allocationError .stripFull)))
    else ∃ t, exec (.ralloc n rev) s = .next t ∧ t.outcome = .ok (.ring s.nrings s.cursor) ∧
      t.ringAt s.nrings = some { offset := s.cursor, count := n, reverse := rev } ∧
      (∀ r, r ≠ s.nrings → t.ringAt r = s.ringAt r) ∧ t.cursor = s.cursor + n ∧ t.nrings = s.nrings + 1 ∧
      (∀ g, t.stripAt g = s.stripAt g) ∧ sameUnitE s t ∧ sameInput s t

/-- 41_mapper.md R134, and "The result is always `< cursor <= STRIP_LEN`" in states that keep the invariant. -/
def Obligations.RmapFollowsItsRule : Prop :=
  ∀ (s : State) (r i : Nat),
    if s.nrings ≤ r then exec (.rmap r i) s = .refused (.noSuchRing r)
    else ∀ d, s.ringAt r = some d →
      if d.count ≤ i then exec (.rmap r i) s = .next (s.report (.fault (.indexError r i)))
      else ∃ t, exec (.rmap r i) s = .next t ∧
        t.outcome = .ok (.index (if d.reverse then d.offset + (d.count - 1 - i) else d.offset + i)) ∧
        (s.Inv → (if d.reverse then d.offset + (d.count - 1 - i) else d.offset + i) < s.cursor ∧
          s.cursor ≤ s.cfg.stripLen) ∧
        sameUnitE s t ∧ sameUnitM s t ∧ sameInput s t

/-- 41_mapper.md R135, in states that keep the invariant of 10_state.md R27 (in others the address may lie outside
the strip). -/
def Obligations.RsetFollowsItsRule : Prop :=
  ∀ (s : State) (r i : Nat) (color : Pixel), s.Inv →
    if s.nrings ≤ r then exec (.rset r i color) s = .refused (.noSuchRing r)
    else ∀ d, s.ringAt r = some d →
      if d.count ≤ i then exec (.rset r i color) s = .next (s.report (.fault (.indexError r i)))
      else ∃ t, exec (.rset r i color) s = .next t ∧ t.outcome = .ok .unit ∧
        t.stripAt (mapIndex d i) = some color ∧ (∀ g, g ≠ mapIndex d i → t.stripAt g = s.stripAt g) ∧
        d.offset ≤ mapIndex d i ∧ mapIndex d i < d.offset + d.count ∧
        (∀ q e j, q ≠ r → s.ringAt q = some e → j < e.count → t.stripAt (mapIndex e j) = s.stripAt (mapIndex e j)) ∧
        t.cursor = s.cursor ∧ t.nrings = s.nrings ∧ (∀ j, t.ringAt j = s.ringAt j) ∧ sameUnitE s t ∧ sameInput s t

/-- 41_mapper.md R136. -/
def Obligations.RnumFollowsItsRule : Prop :=
  ∀ (s : State) (r : Nat),
    if s.nrings ≤ r then exec (.rnum r) s = .refused (.noSuchRing r)
    else ∀ d, s.ringAt r = some d →
      ∃ t, exec (.rnum r) s = .next t ∧ t.outcome = .ok (.count d.count) ∧
        sameUnitE s t ∧ sameUnitM s t ∧ sameInput s t

/-- The invariant of 10_state.md R27 with the canonical form of both memories: every step keeps it. -/
def Obligations.RingInvariantIsKept : Prop :=
  ∀ s t : State, s.Inv → step s = .next t → t.Inv

/-- That invariant at reset, under every configuration. -/
def Obligations.RingInvariantAtReset : Prop :=
  State.reset.Inv ∧ ∀ cfg : Config, (State.resetWith cfg).Inv

/-- Non-overlap and coverage, 41_mapper.md section 3. -/
def Obligations.RingsPartitionTheAllocatedStrip : Prop :=
  ∀ s : State, s.Inv →
    (∀ r q d e i j, s.ringAt r = some d → s.ringAt q = some e → r ≠ q → i < d.count → j < e.count →
      mapIndex d i ≠ mapIndex e j) ∧
    (∀ g, g < s.cursor → ∃ r d i, s.ringAt r = some d ∧ i < d.count ∧ mapIndex d i = g) ∧
    (∀ r d i, s.ringAt r = some d → i < d.count → mapIndex d i < s.cursor ∧ mapIndex d i < s.cfg.stripLen)

/-- "an RSET through one ring never changes a pixel another ring maps" (41_mapper.md R135, corner cases). -/
def Obligations.StoreNeverTouchesAnotherRing : Prop :=
  ∀ (s t : State) (r q i j : Nat) (e : RingDesc) (color : Pixel), s.Inv → exec (.rset r i color) s = .next t →
    r ≠ q → s.ringAt q = some e → j < e.count → t.stripAt (mapIndex e j) = s.stripAt (mapIndex e j)

/-- "two RSETs to the same global index leave the value of the later one" (20_memory.md R60), and the same store
twice is as one (R57). -/
def Obligations.LaterStoreWins : Prop :=
  ∀ (s t u : State) (r i : Nat) (p q : Pixel), exec (.rset r i p) s = .next t → exec (.rset r i q) t = .next u →
    t.outcome = .ok .unit →
    u.outcome = .ok .unit ∧ ∃ v, exec (.rset r i q) s = .next v ∧
      (∀ g, u.stripAt g = v.stripAt g) ∧ (p = q → ∀ g, u.stripAt g = t.stripAt g)

/-- "second's offset equals first's offset + first's count" (10_state.md R27 (b), S6). -/
def Obligations.BackToBackRingsAbut : Prop :=
  ∀ (s t u : State) (n m r off q off' : Nat) (a b : Bool), exec (.ralloc n a) s = .next t →
    t.outcome = .ok (.ring r off) → exec (.ralloc m b) t = .next u → u.outcome = .ok (.ring q off') →
    q = r + 1 ∧ off' = off + n ∧ ∃ d, u.ringAt r = some d ∧ d.offset = off ∧ d.count = n

/-- "A valid entry is written once ... and never again" (10_state.md R26): over any step. -/
def Obligations.ConstructedRingsNeverChange : Prop :=
  ∀ s t : State, step s = .next t →
    s.nrings ≤ t.nrings ∧ ∀ r, r < s.nrings → t.ringAt r = s.ringAt r

/-- The widths of 10_state.md R24, R26 and 41_mapper.md R130 hold every value, and LEN_W holds 65536. -/
def Obligations.IndexWidthHoldsEveryValue : Prop :=
  ∀ s : State, s.Inv → s.cfg.stripLen < 2 ^ s.cfg.idxW ∧ s.cursor < 2 ^ s.cfg.idxW ∧ 65536 < 2 ^ s.cfg.lenW ∧
    ∀ r d, s.ringAt r = some d → d.offset < 2 ^ s.cfg.idxW ∧ d.count < 2 ^ s.cfg.idxW ∧
      d.offset + d.count < 2 ^ s.cfg.idxW

/-! ## The whole machine -/

/-- Who writes what (10_state.md R20, R24, R25, R26, R28, R29): over every instruction. -/
def Obligations.EachStateHasItsWriter : Prop :=
  ∀ (i : Instr) (s t : State), exec i s = .next t →
    s.cursor ≤ t.cursor ∧ s.nrings ≤ t.nrings ∧ s.out <+: t.out ∧
    ((∀ n rev, i ≠ .ralloc n rev) →
      t.cursor = s.cursor ∧ t.nrings = s.nrings ∧ ∀ r, t.ringAt r = s.ringAt r) ∧
    ((∀ r j p, i ≠ .rset r j p) → ∀ g, t.stripAt g = s.stripAt g) ∧
    ((∀ c p, i ≠ .encpix c p) → i ≠ .enclatch → sameUnitE s t)

/-- The constants of 10_state.md R22: no step changes them. -/
def Obligations.ConfigurationNeverChanges : Prop :=
  ∀ s t : State, step s = .next t → t.cfg = s.cfg

/-- Fault entry (60_exceptions.md R158): an instruction that ends in an error kind changes nothing but the
outcome. -/
def Obligations.FaultsChangeNothing : Prop :=
  ∀ (i : Instr) (s t : State) (e : ErrorKind), exec i s = .next t → t.outcome = .fault e →
    t = s.report (.fault e)

/-- "a fault is not sticky and disables nothing" (60_exceptions.md R159), and no operation reads an outcome
(10_state.md R32). -/
def Obligations.FaultsAreNotSticky : Prop :=
  (∀ (i : Instr) (s : State) (o : OpOutcome), exec i (s.report o) = exec i s) ∧
  ∀ (i j : Instr) (s t : State) (e : ErrorKind), exec i s = .next t → t.outcome = .fault e → exec j t = exec j s

/-- The table of 60_exceptions.md R150: codes, who raises each kind, from which cause, with which information. -/
def Obligations.ErrorKindsFollowTheirTable : Prop :=
  (∀ (i : Instr) (s t : State) (e : ErrorKind), exec i s = .next t → t.outcome = .fault e →
    match e with
    | .encodingError l => ∃ c p, i = .encpix c p ∧ l = p.length ∧ 65535 < l
    | .invalidChannelError c => ∃ p, i = .encpix c p ∧ c = 255#8
    | .indexError r k => ∃ d, s.ringAt r = some d ∧ d.count ≤ k ∧ (i = .rmap r k ∨ ∃ p, i = .rset r k p)
    | .allocationError cause => ∃ n rev, i = .ralloc n rev ∧
        match cause with
        | .tableFull => s.nrings = s.cfg.ringCap
        | .stripFull => s.cfg.stripLen < s.cursor + n
    | .transportError => False) ∧
  (∀ (l r k : Nat) (c : Byte) (a : AllocCause), (ErrorKind.encodingError l).code = 1 ∧
    (ErrorKind.invalidChannelError c).code = 2 ∧ (ErrorKind.indexError r k).code = 3 ∧
    (ErrorKind.allocationError a).code = 4 ∧ ErrorKind.transportError.code = 5) ∧
  OpOutcome.none.code = 0 ∧ (∀ x, (OpOutcome.ok x).code = 0) ∧ ∀ e, (OpOutcome.fault e).code = e.code

/-- 60_exceptions.md R152, under a legal ORDER (log 16). -/
def Obligations.InvalidChannelExactlyOn255 : Prop :=
  ∀ (s : State) (c : Byte) (pixels : List Pixel), orderLegal s.cfg.order = true →
    ((∃ t, exec (.encpix c pixels) s = .next t ∧ t.outcome = .fault (.invalidChannelError c)) ↔ c = 255#8)

/-- 60_exceptions.md R151 with the priority of R157, under a legal ORDER (log 16). -/
def Obligations.EncodingErrorExactlyOnOverlongSequences : Prop :=
  ∀ (s : State) (c : Byte) (pixels : List Pixel), orderLegal s.cfg.order = true →
    ((∃ t l, exec (.encpix c pixels) s = .next t ∧ t.outcome = .fault (.encodingError l)) ↔
      c ≠ 255#8 ∧ 65535 < pixels.length)

/-- 60_exceptions.md R153: for a constructed ring, exactly on an index not below its count. -/
def Obligations.IndexErrorExactlyOutsideTheRing : Prop :=
  ∀ (s : State) (r i : Nat) (d : RingDesc) (color : Pixel), r < s.nrings → s.ringAt r = some d →
    (exec (.rmap r i) s = .next (s.report (.fault (.indexError r i))) ↔ d.count ≤ i) ∧
    (exec (.rset r i color) s = .next (s.report (.fault (.indexError r i))) ↔ d.count ≤ i)

/-- 60_exceptions.md R154, with the priority of R157. -/
def Obligations.AllocationErrorExactlyWhenFull : Prop :=
  ∀ (s : State) (n : Nat) (rev : Bool),
    (exec (.ralloc n rev) s = .next (s.report (.fault (.allocationError .tableFull))) ↔ s.nrings = s.cfg.ringCap) ∧
    (exec (.ralloc n rev) s = .next (s.report (.fault (.allocationError .stripFull))) ↔
      s.nrings ≠ s.cfg.ringCap ∧ s.cfg.stripLen < s.cursor + n)

/-- In states that keep the invariant an instruction answers a next state exactly when its operands name what
exists, and is refused otherwise; it never stops with a fault (00_scope.md R15). -/
def Obligations.MeaningfulInstructionsComplete : Prop :=
  ∀ (i : Instr) (s : State), s.Inv →
    (meaningful s i → ∃ t, exec i s = .next t) ∧ (¬meaningful s i → ∃ why, exec i s = .refused why)

/-- 10_state.md R35 and 70_reset_and_hazards.md R180: the values the spec gives, under every configuration; the
machine's reset is the one of some configuration. The working registers have no value in the spec and are not stated. -/
def Obligations.ResetLeavesTheStatedValues : Prop :=
  (∀ cfg : Config, (State.resetWith cfg).cfg = cfg ∧ (State.resetWith cfg).cursor = 0 ∧
    (State.resetWith cfg).nrings = 0 ∧ (∀ r, (State.resetWith cfg).ringAt r = none) ∧
    (∀ g, (State.resetWith cfg).stripAt g = none) ∧ (State.resetWith cfg).out = []) ∧
  ∃ cfg : Config, State.reset = State.resetWith cfg

/-- The order byte the machine has at reset is a legal one, whatever the free value is (log 4). -/
def Obligations.ResetOrderIsLegal : Prop :=
  orderLegal State.reset.cfg.order = true

/-- A step runs the oldest operation the host has issued (10_state.md R20). -/
def Obligations.StepRunsTheHostsOperation : Prop :=
  ∀ (s : State) (i : Instr) (rest : List Instr), s.ops = i :: rest → step s = exec i (s.setOps rest)

/-- With no operation waiting, a step runs the frame the presented bytes decode to, past its bytes. -/
def Obligations.StepRunsTheDecodedFrame : Prop :=
  ∀ (s : State) (i : Instr) (rest : List Byte), s.ops = [] → decode s.cfg.magic s.rx = .frame i rest →
    step s = exec i (s.setRx rest)

/-- With nothing to do the state stays (60_exceptions.md R156), also while a header or a frame is incomplete
(30_encoding.md R78), and bytes that are no frame are refused. -/
def Obligations.StepWaitsOrRejects : Prop :=
  ∀ s : State, s.ops = [] →
    (s.rx = [] → step s = .next s) ∧ (decode s.cfg.magic s.rx = .needMore → step s = .next s) ∧
    (∀ n, frameLen s.cfg.magic s.rx = .len n → s.rx.length < n → step s = .next s) ∧
    (∀ why, frameLen s.cfg.magic s.rx = .notAFrame why → step s = .refused (.notAFrame why))

/-! ## The macros -/

/-- "the part of `out` produced by one tick parses as zero or more PIXEL frames followed by exactly one LATCH
frame" (70_reset_and_hazards.md R184): from every state, for every list of buffers. That two buffers with one
channel id are both sent, in the order given, is the model's choice (DESIGN CHOICE, log 21). -/
def Obligations.TickOutputReadsAsItsFrames : Prop :=
  ∀ (s : State) (buffers : List (Byte × List Pixel)), orderLegal s.cfg.order = true →
    (∀ b ∈ buffers, b.1.toNat ≤ 254 ∧ b.2.length ≤ 65535) →
    ∃ t produced frames trailer, runAll (tick buffers) s = .next t ∧ t.out = s.out ++ produced ∧
      parseStream s.cfg.magic produced = some (frames ++ [.latch trailer]) ∧
      frames.length = buffers.length ∧
      (∀ f ∈ frames ++ [.latch trailer], madeBy s.cfg f) ∧
      (∀ (n : Nat) (b : Byte × List Pixel), (byChannel buffers)[n]? = some b →
        ∃ tr, frames[n]? = some (.pixel b.1 s.cfg.order (b.2.map (permute s.cfg.order)) tr)) ∧
      sameUnitM s t ∧ sameInput s t

/-- SHUTDOWN (30_encoding.md R84, 70_reset_and_hazards.md R188): every pixel of every ring is (0,0,0,0) after it,
and the rings are as before. Two buffers with one channel id are sent as log 21 has it (DESIGN CHOICE). -/
def Obligations.ShutdownClearsEveryRing : Prop :=
  ∀ (s : State) (buffers : List (Byte × Nat)), s.Inv → orderLegal s.cfg.order = true →
    (∀ b ∈ buffers, b.1.toNat ≤ 254 ∧ b.2 ≤ 65535) →
    ∃ t, runAll (shutdown s buffers) s = .next t ∧ (∀ g, g < s.cursor → t.stripAt g = some ⟨0#8, 0#8, 0#8, 0#8⟩) ∧
      (∀ g, s.cursor ≤ g → t.stripAt g = none) ∧ t.cursor = s.cursor ∧ t.nrings = s.nrings ∧
      ∀ r, t.ringAt r = s.ringAt r

/-- The order of a tick and of a shutdown (30_encoding.md R84, 70_reset_and_hazards.md R186, R188): the ENCPIX
operations send the given buffers by ascending channel id, strictly where no two share one, before the one
latch; then the tick does not depend on the order the buffers are given in. Shutdown's stores, all of
(0,0,0,0), come after its latch (DEDUCED, log 19). -/
def Obligations.MacrosSendAscendingChannels : Prop :=
  (∀ buffers : List (Byte × List Pixel), ∃ sent : List (Byte × List Pixel),
    tick buffers = sent.map (fun b => Instr.encpix b.1 b.2) ++ [.enclatch] ∧ sent.Perm buffers ∧
    (sent.map fun b => b.1.toNat).Pairwise (· ≤ ·) ∧
    ((buffers.map Prod.fst).Nodup → (sent.map fun b => b.1.toNat).Pairwise (· < ·) ∧
      ∀ other : List (Byte × List Pixel), other.Perm buffers → tick other = tick buffers)) ∧
  ∀ (s : State) (buffers : List (Byte × Nat)), ∃ (sent : List (Byte × List Pixel)) (stores : List Instr),
    shutdown s buffers = sent.map (fun b => Instr.encpix b.1 b.2) ++ [.enclatch] ++ stores ∧
    sent.Perm (buffers.map fun b => (b.1, List.replicate b.2 ⟨0#8, 0#8, 0#8, 0#8⟩)) ∧
    (sent.map fun b => b.1.toNat).Pairwise (· ≤ ·) ∧
    ((buffers.map Prod.fst).Nodup → (sent.map fun b => b.1.toNat).Pairwise (· < ·)) ∧
    ∀ i, i ∈ stores ↔ ∃ r k d, r < s.nrings ∧ s.ringAt r = some d ∧ k < d.count ∧
      i = .rset r k ⟨0#8, 0#8, 0#8, 0#8⟩

/-- The constraints on the two widths (00_scope.md R8): a configuration can have exactly the pairs of STRIP_LEN
and IDX_W, and exactly the LEN_W, that they allow. -/
def Obligations.ConfigurationsReachEveryAllowedWidth : Prop :=
  (∀ stripLen w : Nat, stripLen < 2 ^ w ↔ ∃ cfg : Config, cfg.stripLen = stripLen ∧ cfg.idxW = w) ∧
  ∀ w : Nat, 17 ≤ w ↔ ∃ cfg : Config, cfg.lenW = w
end

