-- ==== Sys2Proof/Laws/Decode.lean ====
section
/-!
SUPPORT. Laws/Decode.lean: byte order and grouping, forth and back, and the lengths of the layouts.
-/

namespace Sys2Proof

@[simp] theorem Quad.bytes_length (q : Quad) : q.bytes.length = 4 := rfl

@[simp] theorem le16_length (n : Nat) : (le16 n).length = 2 := rfl

@[simp] theorem le32_length (w : Word) : (le32 w).length = 4 := rfl

theorem un16_le16 {n : Nat} (h : n < 65536) : un16 (BitVec.ofNat 8 n) (BitVec.ofNat 8 (n / 256)) = n := by
  simp only [un16, BitVec.toNat_ofNat]; omega

theorem un16_lt (a b : Byte) : un16 a b < 65536 := by
  have := a.isLt; have := b.isLt; unfold un16; omega

theorem le16_un16 (a b : Byte) : le16 (un16 a b) = [a, b] := by
  have ha := a.isLt; have hb := b.isLt
  simp only [le16, un16, List.cons.injEq, and_true]
  constructor <;> apply BitVec.eq_of_toNat_eq <;> simp only [BitVec.toNat_ofNat] <;> omega

theorem un32_le32Quad (w : Word) :
    un32 (le32Quad w).b0 (le32Quad w).b1 (le32Quad w).b2 (le32Quad w).b3 = w := by
  have hw := w.isLt
  apply BitVec.eq_of_toNat_eq
  simp only [un32, le32Quad, bits, BitVec.toNat_ofNat]
  omega

theorem le32Quad_un32 (a b c d : Byte) : le32Quad (un32 a b c d) = ⟨a, b, c, d⟩ := by
  have ha := a.isLt; have hb := b.isLt; have hc := c.isLt; have hd := d.isLt
  simp only [un32, le32Quad, bits, BitVec.toNat_ofNat, Quad.mk.injEq]
  refine ⟨?_, ?_, ?_, ?_⟩ <;> apply BitVec.eq_of_toNat_eq <;> simp only [BitVec.toNat_ofNat] <;> omega

@[simp] theorem payloadBytes_nil : payloadBytes [] = [] := rfl

@[simp] theorem payloadBytes_cons (q : Quad) (qs : List Quad) :
    payloadBytes (q :: qs) = q.b0 :: q.b1 :: q.b2 :: q.b3 :: payloadBytes qs := rfl

@[simp] theorem payloadBytes_length (qs : List Quad) : (payloadBytes qs).length = 4 * qs.length := by
  induction qs with
  | nil => rfl
  | cons q qs ih => simp [ih]; omega

@[simp] theorem groups_payloadBytes (qs : List Quad) : groups (payloadBytes qs) = qs := by
  induction qs with
  | nil => rfl
  | cons q qs ih => simp [groups, ih]

/-- A sequence of four times `n` bytes is the payload of its `n` groups. -/
theorem payloadBytes_groups (n : Nat) (s : List Byte) (h : s.length = 4 * n) :
    payloadBytes (groups s) = s ∧ (groups s).length = n := by
  induction n generalizing s with
  | zero => rw [List.length_eq_zero_iff.1 (by omega : s.length = 0)]; exact ⟨rfl, rfl⟩
  | succ n ih =>
    match s, h with
    | a :: b :: c :: d :: rest, h =>
      obtain ⟨e, l⟩ := ih rest (by simp only [List.length_cons] at h; omega)
      simp [groups, e, l]

@[simp] theorem pixelBody_length (magic : Quad) (channel order : Byte) (payload : List Quad) :
    (pixelBody magic channel order payload).length = 10 + 4 * payload.length := by
  simp [pixelBody]; omega

@[simp] theorem latchBody_length (magic : Quad) : (latchBody magic).length = 6 := rfl

/-- Which PIXEL terms are frames (30_encoding.md R70, R72). -/
@[simp] theorem wellFormed_pixel (channel order : Byte) (payload : List Quad) (trailer : Word) :
    Instr.wellFormed (.pixel channel order payload trailer) = true ↔ channel.toNat ≤ 254 ∧ payload.length ≤ 65535 := by
  rw [Instr.wellFormed, Bool.and_eq_true, decide_eq_true_iff, decide_eq_true_iff]; rfl

@[simp] theorem decode_nil (magic : Quad) : decode magic [] = .needMore := rfl

end Sys2Proof
end

