-- ==== Sys2Proof/Laws/State.lean ====
section
/-!
SUPPORT. Laws/State.lean: one lemma for each field and each named update of the state, and the fields of the
state after reset.
-/

namespace Sys2Proof.Machine

variable (s : State)

@[simp] theorem State.report_cfg (o : OpOutcome) : (s.report o).cfg = s.cfg := rfl
@[simp] theorem State.report_cursor (o : OpOutcome) : (s.report o).cursor = s.cursor := rfl
@[simp] theorem State.report_nrings (o : OpOutcome) : (s.report o).nrings = s.nrings := rfl
@[simp] theorem State.report_ring (o : OpOutcome) : (s.report o).ring = s.ring := rfl
@[simp] theorem State.report_strip (o : OpOutcome) : (s.report o).strip = s.strip := rfl
@[simp] theorem State.report_out (o : OpOutcome) : (s.report o).out = s.out := rfl
@[simp] theorem State.report_crc (o : OpOutcome) : (s.report o).crc = s.crc := rfl
@[simp] theorem State.report_pos (o : OpOutcome) : (s.report o).pos = s.pos := rfl
@[simp] theorem State.report_left (o : OpOutcome) : (s.report o).left = s.left := rfl
@[simp] theorem State.report_outcome (o : OpOutcome) : (s.report o).outcome = o := rfl
@[simp] theorem State.report_ops (o : OpOutcome) : (s.report o).ops = s.ops := rfl
@[simp] theorem State.report_rx (o : OpOutcome) : (s.report o).rx = s.rx := rfl

@[simp] theorem State.emit_cfg (f : List Byte) : (s.emit f).cfg = s.cfg := rfl
@[simp] theorem State.emit_cursor (f : List Byte) : (s.emit f).cursor = s.cursor := rfl
@[simp] theorem State.emit_nrings (f : List Byte) : (s.emit f).nrings = s.nrings := rfl
@[simp] theorem State.emit_ring (f : List Byte) : (s.emit f).ring = s.ring := rfl
@[simp] theorem State.emit_strip (f : List Byte) : (s.emit f).strip = s.strip := rfl
@[simp] theorem State.emit_out (f : List Byte) : (s.emit f).out = s.out ++ f := rfl
@[simp] theorem State.emit_crc (f : List Byte) : (s.emit f).crc = s.crc := rfl
@[simp] theorem State.emit_pos (f : List Byte) : (s.emit f).pos = s.pos := rfl
@[simp] theorem State.emit_left (f : List Byte) : (s.emit f).left = s.left := rfl
@[simp] theorem State.emit_outcome (f : List Byte) : (s.emit f).outcome = s.outcome := rfl
@[simp] theorem State.emit_ops (f : List Byte) : (s.emit f).ops = s.ops := rfl
@[simp] theorem State.emit_rx (f : List Byte) : (s.emit f).rx = s.rx := rfl

@[simp] theorem State.setWork_cfg (c : Word) (p l : Nat) : (s.setWork c p l).cfg = s.cfg := rfl
@[simp] theorem State.setWork_cursor (c : Word) (p l : Nat) : (s.setWork c p l).cursor = s.cursor := rfl
@[simp] theorem State.setWork_nrings (c : Word) (p l : Nat) : (s.setWork c p l).nrings = s.nrings := rfl
@[simp] theorem State.setWork_ring (c : Word) (p l : Nat) : (s.setWork c p l).ring = s.ring := rfl
@[simp] theorem State.setWork_strip (c : Word) (p l : Nat) : (s.setWork c p l).strip = s.strip := rfl
@[simp] theorem State.setWork_out (c : Word) (p l : Nat) : (s.setWork c p l).out = s.out := rfl
@[simp] theorem State.setWork_crc (c : Word) (p l : Nat) : (s.setWork c p l).crc = c := rfl
@[simp] theorem State.setWork_pos (c : Word) (p l : Nat) : (s.setWork c p l).pos = p := rfl
@[simp] theorem State.setWork_left (c : Word) (p l : Nat) : (s.setWork c p l).left = l := rfl
@[simp] theorem State.setWork_outcome (c : Word) (p l : Nat) : (s.setWork c p l).outcome = s.outcome := rfl
@[simp] theorem State.setWork_ops (c : Word) (p l : Nat) : (s.setWork c p l).ops = s.ops := rfl
@[simp] theorem State.setWork_rx (c : Word) (p l : Nat) : (s.setWork c p l).rx = s.rx := rfl

@[simp] theorem State.addRing_cfg (n : Nat) (rev : Bool) : (s.addRing n rev).cfg = s.cfg := rfl
@[simp] theorem State.addRing_cursor (n : Nat) (rev : Bool) : (s.addRing n rev).cursor = s.cursor + n := rfl
@[simp] theorem State.addRing_nrings (n : Nat) (rev : Bool) : (s.addRing n rev).nrings = s.nrings + 1 := rfl
@[simp] theorem State.addRing_ring (n : Nat) (rev : Bool) : (s.addRing n rev).ring = Memory.write s.ring s.nrings ⟨s.cursor, n, rev⟩ := rfl
@[simp] theorem State.addRing_strip (n : Nat) (rev : Bool) : (s.addRing n rev).strip = s.strip := rfl
@[simp] theorem State.addRing_out (n : Nat) (rev : Bool) : (s.addRing n rev).out = s.out := rfl
@[simp] theorem State.addRing_crc (n : Nat) (rev : Bool) : (s.addRing n rev).crc = s.crc := rfl
@[simp] theorem State.addRing_pos (n : Nat) (rev : Bool) : (s.addRing n rev).pos = s.pos := rfl
@[simp] theorem State.addRing_left (n : Nat) (rev : Bool) : (s.addRing n rev).left = s.left := rfl
@[simp] theorem State.addRing_outcome (n : Nat) (rev : Bool) : (s.addRing n rev).outcome = s.outcome := rfl
@[simp] theorem State.addRing_ops (n : Nat) (rev : Bool) : (s.addRing n rev).ops = s.ops := rfl
@[simp] theorem State.addRing_rx (n : Nat) (rev : Bool) : (s.addRing n rev).rx = s.rx := rfl

@[simp] theorem State.setPixel_cfg (g : Nat) (p : Pixel) : (s.setPixel g p).cfg = s.cfg := rfl
@[simp] theorem State.setPixel_cursor (g : Nat) (p : Pixel) : (s.setPixel g p).cursor = s.cursor := rfl
@[simp] theorem State.setPixel_nrings (g : Nat) (p : Pixel) : (s.setPixel g p).nrings = s.nrings := rfl
@[simp] theorem State.setPixel_ring (g : Nat) (p : Pixel) : (s.setPixel g p).ring = s.ring := rfl
@[simp] theorem State.setPixel_strip (g : Nat) (p : Pixel) : (s.setPixel g p).strip = Memory.write s.strip g p := rfl
@[simp] theorem State.setPixel_out (g : Nat) (p : Pixel) : (s.setPixel g p).out = s.out := rfl
@[simp] theorem State.setPixel_crc (g : Nat) (p : Pixel) : (s.setPixel g p).crc = s.crc := rfl
@[simp] theorem State.setPixel_pos (g : Nat) (p : Pixel) : (s.setPixel g p).pos = s.pos := rfl
@[simp] theorem State.setPixel_left (g : Nat) (p : Pixel) : (s.setPixel g p).left = s.left := rfl
@[simp] theorem State.setPixel_outcome (g : Nat) (p : Pixel) : (s.setPixel g p).outcome = s.outcome := rfl
@[simp] theorem State.setPixel_ops (g : Nat) (p : Pixel) : (s.setPixel g p).ops = s.ops := rfl
@[simp] theorem State.setPixel_rx (g : Nat) (p : Pixel) : (s.setPixel g p).rx = s.rx := rfl

@[simp] theorem State.setOps_cfg (l : List Instr) : (s.setOps l).cfg = s.cfg := rfl
@[simp] theorem State.setOps_cursor (l : List Instr) : (s.setOps l).cursor = s.cursor := rfl
@[simp] theorem State.setOps_nrings (l : List Instr) : (s.setOps l).nrings = s.nrings := rfl
@[simp] theorem State.setOps_ring (l : List Instr) : (s.setOps l).ring = s.ring := rfl
@[simp] theorem State.setOps_strip (l : List Instr) : (s.setOps l).strip = s.strip := rfl
@[simp] theorem State.setOps_out (l : List Instr) : (s.setOps l).out = s.out := rfl
@[simp] theorem State.setOps_crc (l : List Instr) : (s.setOps l).crc = s.crc := rfl
@[simp] theorem State.setOps_pos (l : List Instr) : (s.setOps l).pos = s.pos := rfl
@[simp] theorem State.setOps_left (l : List Instr) : (s.setOps l).left = s.left := rfl
@[simp] theorem State.setOps_outcome (l : List Instr) : (s.setOps l).outcome = s.outcome := rfl
@[simp] theorem State.setOps_ops (l : List Instr) : (s.setOps l).ops = l := rfl
@[simp] theorem State.setOps_rx (l : List Instr) : (s.setOps l).rx = s.rx := rfl

@[simp] theorem State.setRx_cfg (l : List Byte) : (s.setRx l).cfg = s.cfg := rfl
@[simp] theorem State.setRx_cursor (l : List Byte) : (s.setRx l).cursor = s.cursor := rfl
@[simp] theorem State.setRx_nrings (l : List Byte) : (s.setRx l).nrings = s.nrings := rfl
@[simp] theorem State.setRx_ring (l : List Byte) : (s.setRx l).ring = s.ring := rfl
@[simp] theorem State.setRx_strip (l : List Byte) : (s.setRx l).strip = s.strip := rfl
@[simp] theorem State.setRx_out (l : List Byte) : (s.setRx l).out = s.out := rfl
@[simp] theorem State.setRx_crc (l : List Byte) : (s.setRx l).crc = s.crc := rfl
@[simp] theorem State.setRx_pos (l : List Byte) : (s.setRx l).pos = s.pos := rfl
@[simp] theorem State.setRx_left (l : List Byte) : (s.setRx l).left = s.left := rfl
@[simp] theorem State.setRx_outcome (l : List Byte) : (s.setRx l).outcome = s.outcome := rfl
@[simp] theorem State.setRx_ops (l : List Byte) : (s.setRx l).ops = s.ops := rfl
@[simp] theorem State.setRx_rx (l : List Byte) : (s.setRx l).rx = l := rfl

variable (cfg : Config)

@[simp] theorem State.resetWith_cfg : (State.resetWith cfg).cfg = cfg := rfl
@[simp] theorem State.resetWith_cursor : (State.resetWith cfg).cursor = 0 := rfl
@[simp] theorem State.resetWith_nrings : (State.resetWith cfg).nrings = 0 := rfl
@[simp] theorem State.resetWith_ring : (State.resetWith cfg).ring = [] := rfl
@[simp] theorem State.resetWith_strip : (State.resetWith cfg).strip = [] := rfl
@[simp] theorem State.resetWith_out : (State.resetWith cfg).out = [] := rfl
@[simp] theorem State.resetWith_crc : (State.resetWith cfg).crc = 0#32 := rfl
@[simp] theorem State.resetWith_pos : (State.resetWith cfg).pos = 0 := rfl
@[simp] theorem State.resetWith_left : (State.resetWith cfg).left = 0 := rfl
@[simp] theorem State.resetWith_outcome : (State.resetWith cfg).outcome = .none := rfl
@[simp] theorem State.resetWith_ops : (State.resetWith cfg).ops = [] := rfl
@[simp] theorem State.resetWith_rx : (State.resetWith cfg).rx = [] := rfl

@[simp] theorem State.report_report (o p : OpOutcome) : (s.report o).report p = s.report p := rfl

end Sys2Proof.Machine
end

