-- ==== Sys2Proof/Laws/Ops.lean ====
section
/-!
SUPPORT. Laws/Ops.lean: read after write and the canonical form of the sparse memories, and one lemma for each
shared operation that says everything it can do.
-/

namespace Sys2Proof.Machine

section Memory

variable {α : Type}

@[simp] theorem Memory.read_nil (k : Nat) : Memory.read ([] : Memory α) k = none := rfl

theorem Memory.read_cons (a : Nat) (v : α) (m : Memory α) (k : Nat) :
    Memory.read ((a, v) :: m) k = if a = k then some v else Memory.read m k := rfl

theorem Memory.write_cons (a : Nat) (w : α) (m : Memory α) (k : Nat) (v : α) :
    Memory.write ((a, w) :: m) k v = if k < a then (k, v) :: (a, w) :: m
      else if a = k then (k, v) :: m else (a, w) :: Memory.write m k v := rfl

theorem Memory.read_write (m : Memory α) (k : Nat) (v : α) (j : Nat) :
    Memory.read (Memory.write m k v) j = if k = j then some v else Memory.read m j := by
  induction m with
  | nil => rfl
  | cons c m ih =>
    obtain ⟨a, w⟩ := c
    rw [Memory.write_cons]
    split
    · rfl
    · split
      · next h => subst h; simp only [Memory.read_cons]; split <;> rfl
      · next h =>
        simp only [Memory.read_cons, ih]
        split
        · next h' => rw [if_neg (by omega)]
        · rfl

@[simp] theorem Memory.read_write_same (m : Memory α) (k : Nat) (v : α) :
    Memory.read (Memory.write m k v) k = some v := by simp [Memory.read_write]

theorem Memory.read_write_other (m : Memory α) {k j : Nat} (v : α) (h : k ≠ j) :
    Memory.read (Memory.write m k v) j = Memory.read m j := by simp [Memory.read_write, h]

theorem Memory.mem_fst_write (m : Memory α) (k : Nat) (v : α) (a : Nat) :
    a ∈ (Memory.write m k v).map Prod.fst ↔ a = k ∨ a ∈ m.map Prod.fst := by
  induction m with
  | nil => simp [Memory.write]
  | cons c m ih =>
    obtain ⟨b, w⟩ := c
    rw [Memory.write_cons]
    split
    · simp
    · split
      · next h => subst h; simp
      · simp only [List.map_cons, List.mem_cons, ih]; tauto

/-- Every write keeps the canonical form. -/
theorem Memory.wf_write (m : Memory α) (k : Nat) (v : α) (h : Memory.wf m) : Memory.wf (Memory.write m k v) := by
  induction m with
  | nil => simp [Memory.write, Memory.wf]
  | cons c m ih =>
    obtain ⟨b, w⟩ := c
    simp only [Memory.wf, List.map_cons, List.pairwise_cons] at h
    rw [Memory.write_cons]
    split
    · next hk =>
      simp only [Memory.wf, List.map_cons, List.pairwise_cons, List.mem_cons]
      exact ⟨fun a ha => ha.elim (· ▸ hk) fun ha => Nat.lt_trans hk (h.1 a ha), h⟩
    · split
      · next hk => subst hk; simpa only [Memory.wf, List.map_cons, List.pairwise_cons] using h
      · next hk hne =>
        simp only [Memory.wf, List.map_cons, List.pairwise_cons]
        refine ⟨fun a ha => ?_, ih h.2⟩
        rcases (Memory.mem_fst_write m k v a).1 ha with rfl | ha
        · omega
        · exact h.1 a ha

end Memory

section Views

variable (s : State)

@[simp] theorem State.report_ringAt (o : OpOutcome) (r : Nat) : (s.report o).ringAt r = s.ringAt r := rfl
@[simp] theorem State.report_stripAt (o : OpOutcome) (g : Nat) : (s.report o).stripAt g = s.stripAt g := rfl
@[simp] theorem State.emit_ringAt (f : List Byte) (r : Nat) : (s.emit f).ringAt r = s.ringAt r := rfl
@[simp] theorem State.emit_stripAt (f : List Byte) (g : Nat) : (s.emit f).stripAt g = s.stripAt g := rfl
@[simp] theorem State.setWork_ringAt (c : Word) (p l r : Nat) : (s.setWork c p l).ringAt r = s.ringAt r := rfl
@[simp] theorem State.setWork_stripAt (c : Word) (p l g : Nat) : (s.setWork c p l).stripAt g = s.stripAt g := rfl
@[simp] theorem State.setOps_ringAt (l : List Instr) (r : Nat) : (s.setOps l).ringAt r = s.ringAt r := rfl
@[simp] theorem State.setOps_stripAt (l : List Instr) (g : Nat) : (s.setOps l).stripAt g = s.stripAt g := rfl
@[simp] theorem State.setRx_ringAt (l : List Byte) (r : Nat) : (s.setRx l).ringAt r = s.ringAt r := rfl
@[simp] theorem State.setRx_stripAt (l : List Byte) (g : Nat) : (s.setRx l).stripAt g = s.stripAt g := rfl
@[simp] theorem State.setPixel_ringAt (g : Nat) (p : Pixel) (r : Nat) : (s.setPixel g p).ringAt r = s.ringAt r := rfl
@[simp] theorem State.addRing_stripAt (n : Nat) (rev : Bool) (g : Nat) : (s.addRing n rev).stripAt g = s.stripAt g := rfl
@[simp] theorem State.resetWith_ringAt (cfg : Config) (r : Nat) : (State.resetWith cfg).ringAt r = none := rfl
@[simp] theorem State.resetWith_stripAt (cfg : Config) (g : Nat) : (State.resetWith cfg).stripAt g = none := rfl

theorem State.addRing_ringAt (n : Nat) (rev : Bool) (r : Nat) :
    (s.addRing n rev).ringAt r = if s.nrings = r then some ⟨s.cursor, n, rev⟩ else s.ringAt r :=
  Memory.read_write ..

theorem State.setPixel_stripAt (g : Nat) (p : Pixel) (j : Nat) :
    (s.setPixel g p).stripAt j = if g = j then some p else s.stripAt j :=
  Memory.read_write ..

end Views

section Ends

/-- Everything an Ok end does. -/
theorem complete_cases {r : OpResult} {s t : State} (h : complete r s = .next t) : t = s.report (.ok r) := by
  cases h; rfl

/-- Everything the fault entry does. -/
theorem raise_cases {e : ErrorKind} {s t : State} (h : raise e s = .next t) : t = s.report (.fault e) := by
  cases h; rfl

/-- Everything the end of an encode operation does. -/
theorem emitBody_eq (body : List Byte) (s : State) :
    emitBody body s = .next (((s.emit (body ++ le32 (crc32 s.cfg.crc body))).setWork (crcRegister s.cfg.crc body)
      (body.length + 4) 0).report (.ok (.frame (body ++ le32 (crc32 s.cfg.crc body))))) := by
  simp [emitBody, complete, le32, Quad.bytes]

/-- Everything a strip write does inside the strip space. -/
theorem memWrite_eq {g : Nat} {color : Pixel} {s : State} (h : g < s.cfg.stripLen) :
    memWrite g color s = .next ((s.setPixel g color).report (.ok .unit)) := by
  simp [memWrite, h, complete]

theorem memWrite_cases {g : Nat} {color : Pixel} {s : State} :
    (g < s.cfg.stripLen ∧ memWrite g color s = .next ((s.setPixel g color).report (.ok .unit))) ∨
    (s.cfg.stripLen ≤ g ∧ memWrite g color s = .fault (.stripAddressOutside g)) := by
  unfold memWrite
  split
  · next h => exact .inl ⟨h, rfl⟩
  · next h => exact .inr ⟨Nat.le_of_not_lt h, rfl⟩

/-- Everything a ring operand can do. -/
theorem withRing_cases (r : Nat) (s : State) (k : RingDesc → Outcome) :
    (s.nrings ≤ r ∧ withRing r s k = .refused (.noSuchRing r)) ∨
    (r < s.nrings ∧ s.ringAt r = none ∧ withRing r s k = .fault (.ringHoldsNoValue r)) ∨
    (∃ d, r < s.nrings ∧ s.ringAt r = some d ∧ withRing r s k = k d) := by
  unfold withRing
  split
  · next h => exact .inl ⟨h, rfl⟩
  · next h =>
    split
    · next h' => exact .inr (.inl ⟨by omega, h', rfl⟩)
    · next d h' => exact .inr (.inr ⟨d, by omega, h', rfl⟩)

/-- Everything a ring operand with a local index can do. -/
theorem withIndex_cases (r i : Nat) (s : State) (k : Nat → Outcome) :
    (s.nrings ≤ r ∧ withIndex r i s k = .refused (.noSuchRing r)) ∨
    (r < s.nrings ∧ s.ringAt r = none ∧ withIndex r i s k = .fault (.ringHoldsNoValue r)) ∨
    (∃ d, r < s.nrings ∧ s.ringAt r = some d ∧ d.count ≤ i ∧
      withIndex r i s k = .next (s.report (.fault (.indexError r i)))) ∨
    (∃ d, r < s.nrings ∧ s.ringAt r = some d ∧ i < d.count ∧ withIndex r i s k = k (mapIndex d i)) := by
  unfold withIndex
  rcases withRing_cases r s (fun d => if d.count ≤ i then raise (.indexError r i) s else k (mapIndex d i))
    with ⟨h, e⟩ | ⟨h, h', e⟩ | ⟨d, h, h', e⟩
  · exact .inl ⟨h, e⟩
  · exact .inr (.inl ⟨h, h', e⟩)
  · by_cases hi : d.count ≤ i
    · exact .inr (.inr (.inl ⟨d, h, h', hi, by rw [e, if_pos hi]; rfl⟩))
    · exact .inr (.inr (.inr ⟨d, h, h', by omega, by rw [e, if_neg hi]⟩))

/-- A ring operand of a constructed ring. -/
theorem withRing_eq {r : Nat} {s : State} {d : RingDesc} (k : RingDesc → Outcome)
    (h : r < s.nrings) (h' : s.ringAt r = some d) : withRing r s k = k d := by
  simp [withRing, Nat.not_le.2 h, h']

end Ends

end Sys2Proof.Machine
end

