-- ==== Sys2Proof/Laws/Exec.lean ====
section
/-!
SUPPORT. Laws/Exec.lean: what each instruction can do, said once: one lemma per meaning, and the cases of a
step.
-/

namespace Sys2Proof.Machine

/-- The state an encode operation leaves when it ends Ok with the given body. -/
abbrev State.afterEncode (s : State) (body : List Byte) : State :=
  ((s.emit (body ++ le32 (crc32 s.cfg.crc body))).setWork (crcRegister s.cfg.crc body) (body.length + 4) 0).report
    (.ok (.frame (body ++ le32 (crc32 s.cfg.crc body))))

theorem exec_encpix_cases (c : Byte) (pixels : List Pixel) (s : State) :
    (orderLegal s.cfg.order = false ∧ exec (.encpix c pixels) s = .refused .orderNotPermutation) ∨
    (orderLegal s.cfg.order = true ∧ c = Config.chLatch ∧
      exec (.encpix c pixels) s = .next (s.report (.fault (.invalidChannelError c)))) ∨
    (orderLegal s.cfg.order = true ∧ c ≠ Config.chLatch ∧ Config.maxCount < pixels.length ∧
      exec (.encpix c pixels) s = .next (s.report (.fault (.encodingError pixels.length)))) ∨
    (orderLegal s.cfg.order = true ∧ c ≠ Config.chLatch ∧ pixels.length ≤ Config.maxCount ∧
      exec (.encpix c pixels) s =
        .next (s.afterEncode (pixelBody s.cfg.magic c s.cfg.order (pixels.map (permute s.cfg.order))))) := by
  simp only [exec, execEncpix]
  by_cases h1 : orderLegal s.cfg.order = false
  · exact .inl ⟨h1, by rw [if_pos h1]⟩
  · have h1' : orderLegal s.cfg.order = true := by simpa using h1
    rw [if_neg h1]
    by_cases h2 : c = Config.chLatch
    · exact .inr (.inl ⟨h1', h2, by rw [if_pos h2]; rfl⟩)
    · rw [if_neg h2]
      by_cases h3 : Config.maxCount < pixels.length
      · exact .inr (.inr (.inl ⟨h1', h2, h3, by rw [if_pos h3]; rfl⟩))
      · exact .inr (.inr (.inr ⟨h1', h2, by omega, by rw [if_neg h3, emitBody_eq]⟩))

theorem exec_enclatch (s : State) : exec .enclatch s = .next (s.afterEncode (latchBody s.cfg.magic)) :=
  emitBody_eq _ s

theorem exec_ralloc_cases (n : Nat) (rev : Bool) (s : State) :
    (s.nrings = s.cfg.ringCap ∧ exec (.ralloc n rev) s = .next (s.report (.fault (.allocationError .tableFull)))) ∨
    (s.nrings ≠ s.cfg.ringCap ∧ s.cfg.stripLen < s.cursor + n ∧
      exec (.ralloc n rev) s = .next (s.report (.fault (.allocationError .stripFull)))) ∨
    (s.nrings ≠ s.cfg.ringCap ∧ s.cursor + n ≤ s.cfg.stripLen ∧
      exec (.ralloc n rev) s = .next ((s.addRing n rev).report (.ok (.ring s.nrings s.cursor)))) := by
  simp only [exec, execRalloc]
  by_cases h1 : s.nrings = s.cfg.ringCap
  · exact .inl ⟨h1, by rw [if_pos h1]; rfl⟩
  · rw [if_neg h1]
    by_cases h2 : s.cfg.stripLen < s.cursor + n
    · exact .inr (.inl ⟨h1, h2, by rw [if_pos h2]; rfl⟩)
    · exact .inr (.inr ⟨h1, by omega, by rw [if_neg h2]; rfl⟩)

theorem exec_rmap_cases (r i : Nat) (s : State) :
    (s.nrings ≤ r ∧ exec (.rmap r i) s = .refused (.noSuchRing r)) ∨
    (r < s.nrings ∧ s.ringAt r = none ∧ exec (.rmap r i) s = .fault (.ringHoldsNoValue r)) ∨
    (∃ d, r < s.nrings ∧ s.ringAt r = some d ∧ d.count ≤ i ∧
      exec (.rmap r i) s = .next (s.report (.fault (.indexError r i)))) ∨
    (∃ d, r < s.nrings ∧ s.ringAt r = some d ∧ i < d.count ∧
      exec (.rmap r i) s = .next (s.report (.ok (.index (mapIndex d i))))) :=
  withIndex_cases r i s fun g => complete (.index g) s

theorem exec_rset_cases (r i : Nat) (color : Pixel) (s : State) :
    (s.nrings ≤ r ∧ exec (.rset r i color) s = .refused (.noSuchRing r)) ∨
    (r < s.nrings ∧ s.ringAt r = none ∧ exec (.rset r i color) s = .fault (.ringHoldsNoValue r)) ∨
    (∃ d, r < s.nrings ∧ s.ringAt r = some d ∧ d.count ≤ i ∧
      exec (.rset r i color) s = .next (s.report (.fault (.indexError r i)))) ∨
    (∃ d, r < s.nrings ∧ s.ringAt r = some d ∧ i < d.count ∧ s.cfg.stripLen ≤ mapIndex d i ∧
      exec (.rset r i color) s = .fault (.stripAddressOutside (mapIndex d i))) ∨
    (∃ d, r < s.nrings ∧ s.ringAt r = some d ∧ i < d.count ∧ mapIndex d i < s.cfg.stripLen ∧
      exec (.rset r i color) s = .next ((s.setPixel (mapIndex d i) color).report (.ok .unit))) := by
  simp only [exec, execRset]
  rcases withIndex_cases r i s (fun g => memWrite g color s) with h | h | h | ⟨d, h1, h2, h3, e⟩
  · exact .inl h
  · exact .inr (.inl h)
  · exact .inr (.inr (.inl h))
  · rcases memWrite_cases (g := mapIndex d i) (color := color) (s := s) with ⟨h4, e'⟩ | ⟨h4, e'⟩
    · exact .inr (.inr (.inr (.inr ⟨d, h1, h2, h3, h4, by rw [e, e']⟩)))
    · exact .inr (.inr (.inr (.inl ⟨d, h1, h2, h3, h4, by rw [e, e']⟩)))

theorem exec_rnum_cases (r : Nat) (s : State) :
    (s.nrings ≤ r ∧ exec (.rnum r) s = .refused (.noSuchRing r)) ∨
    (r < s.nrings ∧ s.ringAt r = none ∧ exec (.rnum r) s = .fault (.ringHoldsNoValue r)) ∨
    (∃ d, r < s.nrings ∧ s.ringAt r = some d ∧ exec (.rnum r) s = .next (s.report (.ok (.count d.count)))) :=
  withRing_cases r s fun d => complete (.count d.count) s

theorem exec_pixel_cases (channel order : Byte) (payload : List Quad) (trailer : Word) (s : State) :
    (Instr.wellFormed (.pixel channel order payload trailer) = true ∧ exec (.pixel channel order payload trailer) s =
      .next (s.report (.ok (.reading (pixelReading s.cfg channel order payload trailer))))) ∨
    (Instr.wellFormed (.pixel channel order payload trailer) = false ∧
      exec (.pixel channel order payload trailer) s = .refused .undefinedFrame) := by
  simp only [exec, execPixel]
  cases Instr.wellFormed (.pixel channel order payload trailer)
  · exact .inr ⟨rfl, rfl⟩
  · exact .inl ⟨rfl, rfl⟩

theorem exec_latch (trailer : Word) (s : State) :
    exec (.latch trailer) s = .next (s.report (.ok (.reading (latchReading s.cfg trailer)))) := rfl

/-- The cases of a step that answers a next state. -/
theorem step_next_cases {s t : State} (h : step s = .next t) :
    (∃ i rest, s.ops = i :: rest ∧ exec i (s.setOps rest) = .next t) ∨
    (∃ i rest, s.ops = [] ∧ decode s.cfg.magic s.rx = .frame i rest ∧ exec i (s.setRx rest) = .next t) ∨
    (s.ops = [] ∧ decode s.cfg.magic s.rx = .needMore ∧ t = s) := by
  unfold step fetch at h
  cases hops : s.ops with
  | cons i rest => rw [hops] at h; exact .inl ⟨i, rest, rfl, h⟩
  | nil =>
    rw [hops] at h
    cases hd : decode s.cfg.magic s.rx with
    | needMore => rw [hd] at h; cases h; exact .inr (.inr ⟨rfl, rfl, rfl⟩)
    | rejected why => rw [hd] at h; cases h
    | frame i rest => rw [hd] at h; exact .inr (.inl ⟨i, rest, rfl, rfl, h⟩)

end Sys2Proof.Machine
end

