-- ==== Sys2Proof/Laws/Macros.lean ====
section
/-!
SUPPORT. Laws/Macros.lean: what sorting the buffers of a tick can do, and the operations of a tick one by one.
-/

namespace Sys2Proof.Machine

/-- The same buffers are sent. -/
theorem byChannel_perm {α : Type} (buffers : List (Byte × α)) : (byChannel buffers).Perm buffers :=
  List.perm_insertionSort _ _

@[simp] theorem byChannel_length {α : Type} (buffers : List (Byte × α)) :
    (byChannel buffers).length = buffers.length := (byChannel_perm buffers).length_eq

@[simp] theorem mem_byChannel {α : Type} {b : Byte × α} {buffers : List (Byte × α)} :
    b ∈ byChannel buffers ↔ b ∈ buffers := (byChannel_perm buffers).mem_iff

@[simp] theorem byChannel_nil {α : Type} : byChannel ([] : List (Byte × α)) = [] := rfl

@[simp] theorem framesThenLatch_nil : framesThenLatch [] = [.enclatch] := rfl

@[simp] theorem framesThenLatch_cons (b : Byte × List Pixel) (buffers : List (Byte × List Pixel)) :
    framesThenLatch (b :: buffers) = .encpix b.1 b.2 :: framesThenLatch buffers := rfl

end Sys2Proof.Machine
end

