-- ==== Sys2Proof/Laws/Operands.lean ====
section
/-!
SUPPORT. Laws/Operands.lean: what is legal of an order byte, and where the mapping lands.
-/

namespace Sys2Proof.Machine

/-- The listed values are legal, so the free order of the hardware is. -/
theorem hardware_order_legal : orderLegal Config.hardware.order = true := by
  have h : ∀ i : Fin 24, orderLegal (Config.legalOrders.getD i.val 0xE4#8) = true := by decide
  exact h _

theorem orderPos_lt (order : Byte) (k : Nat) : orderPos order k < 4 := by
  unfold orderPos bits
  rw [show 2 * k + 1 - 2 * k + 1 = 2 by omega]
  exact Nat.mod_lt _ (by decide)

/-- The mapping stays in the ring's own range. -/
theorem mapIndex_range {d : RingDesc} {i : Nat} (h : i < d.count) :
    d.offset ≤ mapIndex d i ∧ mapIndex d i < d.offset + d.count := by
  unfold mapIndex; split <;> omega

end Sys2Proof.Machine
end

