-- ==== Sys2Proof/Laws/PerInstr.lean ====
section
/-!
SUPPORT. Laws/PerInstr.lean: families of facts proved once for each constructor of Instr.
FrameSize: an instruction has bytes exactly when it is a wire frame, and then as many as its format gives
(30_encoding.md R70, R83).
-/

namespace Sys2Proof.Laws.FrameSize

/-- The number of bytes of a wire frame (R70); 0 for an operation, which has none (R83). -/
def size : Instr → Nat
  | .pixel _ _ payload _ => 14 + 4 * payload.length
  | .latch _ => 10
  | .encpix _ _ => 0
  | .enclatch => 0
  | .ralloc _ _ => 0
  | .rmap _ _ => 0
  | .rset _ _ _ => 0
  | .rnum _ => 0

/-- An instruction has bytes exactly when it is a wire frame, and then `size` of them. -/
def Statement (i : Instr) : Prop :=
  ∀ magic, (encode magic i).map List.length = if i.isFrame then some (size i) else none

theorem pixel (channel order : Byte) (payload : List Quad) (trailer : Word) :
    Statement (.pixel channel order payload trailer) := by
  intro magic; simp [encode, Instr.isFrame, size]; omega

theorem latch (trailer : Word) : Statement (.latch trailer) := fun _ => rfl

theorem encpix (c : Byte) (pixels : List Pixel) : Statement (.encpix c pixels) := fun _ => rfl

theorem enclatch : Statement .enclatch := fun _ => rfl

theorem ralloc (n : Nat) (rev : Bool) : Statement (.ralloc n rev) := fun _ => rfl

theorem rmap (r i : Nat) : Statement (.rmap r i) := fun _ => rfl

theorem rset (r i : Nat) (color : Pixel) : Statement (.rset r i color) := fun _ => rfl

theorem rnum (r : Nat) : Statement (.rnum r) := fun _ => rfl

end Sys2Proof.Laws.FrameSize
end

