-- ==== Sys2Proof/Tests/Slice0.lean ====
section
/-!
SUPPORT. Tests/Slice0.lean: the spec's own vectors (95_test_vectors.md, named V, S and P there) on single
operations, and a smoke test of every well-formedness check. Expected values are copied from the spec.
-/

namespace Sys2Proof.Machine

/-- A configuration of the vectors: the default magic, the given ORDER, STRIP_LEN 24 (V44). -/
def testCfg (order : Byte) : Config :=
  { magic := Config.defaultMagic, order := order, crc := CrcParams.standard, stripLen := 24, ringCap := 3,
    idxPad := 0, lenPad := 0 }

/-- Just after reset. -/
def test0 (order : Byte) : State := State.resetWith (testCfg order)

/-- The state of V44: rings (0, 16, forward) and (16, 8, reversed). -/
def test44 : State := ((test0 0xE1#8).addRing 16 false).addRing 8 true

/-- The result of an operation, if it answers a next state. -/
def outcomeOf : Outcome → Option OpOutcome
  | .next t => some t.outcome
  | .fault _ => none
  | .refused _ => none

/-- The state an operation answers, or the one it began in. -/
def after (s : State) : Outcome → State
  | .next t => t
  | .fault _ => s
  | .refused _ => s

/-- The name an operation is refused by. -/
def refusalOf : Outcome → Option Refusal
  | .next _ => none
  | .fault _ => none
  | .refused r => some r

/-! The checksum. -/

theorem test_crc_V1 : crc32 .standard [] = 0x00000000#32 := by decide
theorem test_crc_V3 : crc32 .standard [0x01#8] = 0xA505DF1B#32 := by decide +kernel
theorem test_crc_V6 : crc32 .standard [0x31#8, 0x32#8, 0x33#8, 0x34#8, 0x35#8, 0x36#8, 0x37#8, 0x38#8, 0x39#8]
    = 0xCBF43926#32 := by decide +kernel
/-- The register of V7 after each byte. -/
theorem test_crc_register_V7 : [1, 2, 3, 4, 5, 6].map (fun n => crcRegister .standard
      ((latchBody Config.defaultMagic).take n)) =
    [0x36FCB509#32, 0x128115E5#32, 0xB5C24E24#32, 0x43DC2B24#32, 0x1142D777#32, 0x207EC764#32] := by decide +kernel
/-- CRC-32/BZIP2 and CRC-32C over the bytes of V7, which the spec gives for contrast. -/
theorem test_crc_other_variants :
    crc32 ⟨0x04C11DB7#32, 0xFFFFFFFF#32, false, false, 0xFFFFFFFF#32⟩ (latchBody Config.defaultMagic) = 0xB68D627D#32 ∧
    crc32 ⟨0x82F63B78#32, 0xFFFFFFFF#32, true, true, 0xFFFFFFFF#32⟩ (latchBody Config.defaultMagic) = 0xEB208302#32 := by
  decide +kernel

/-! The channel order (table of 2.2). -/

theorem test_permute : [0xE4#8, 0xE1#8, 0x1B#8, 0xC9#8].map (fun o => (permute o ⟨1#8, 2#8, 3#8, 4#8⟩).bytes) =
    [[1#8, 2#8, 3#8, 4#8], [2#8, 1#8, 3#8, 4#8], [4#8, 3#8, 2#8, 1#8], [3#8, 1#8, 2#8, 4#8]] := by decide
theorem test_order_E5_illegal : orderLegal 0xE5#8 = false ∧ orderLegal 0xE1#8 = true := by decide

/-! Unit E. -/

theorem test_enclatch_V10 : outcomeOf (exec .enclatch (test0 0xE4#8)) = some (.ok (.frame
    [0x55#8, 0x50#8, 0x58#8, 0x4C#8, 0xFF#8, 0x02#8, 0x9B#8, 0x38#8, 0x81#8, 0xDF#8])) := by decide +kernel
theorem test_enclatch_working_registers :
    (after (test0 0xE4#8) (exec .enclatch (test0 0xE4#8))).crc = 0x207EC764#32 ∧
    (after (test0 0xE4#8) (exec .enclatch (test0 0xE4#8))).pos = 10 := by decide +kernel
theorem test_encpix_V15 : outcomeOf (exec (.encpix 0#8 [⟨1#8, 2#8, 3#8, 4#8⟩]) (test0 0xC9#8)) = some (.ok (.frame
    [0x55#8, 0x50#8, 0x58#8, 0x4C#8, 0x00#8, 0x01#8, 0x04#8, 0xC9#8, 0x01#8, 0x00#8, 0x03#8, 0x01#8, 0x02#8, 0x04#8,
     0x9A#8, 0x3C#8, 0x78#8, 0xBA#8])) := by decide +kernel
theorem test_encpix_V17 :
    (after (test0 0xE1#8) (exec (.encpix 7#8 [⟨0x11#8, 0x22#8, 0x33#8, 0x44#8⟩, ⟨0xAA#8, 0xBB#8, 0xCC#8, 0xDD#8⟩])
      (test0 0xE1#8))).out =
    [0x55#8, 0x50#8, 0x58#8, 0x4C#8, 0x07#8, 0x01#8, 0x04#8, 0xE1#8, 0x02#8, 0x00#8, 0x22#8, 0x11#8, 0x33#8, 0x44#8,
     0xBB#8, 0xAA#8, 0xCC#8, 0xDD#8, 0x54#8, 0x41#8, 0x59#8, 0xE4#8] := by decide +kernel
theorem test_encpix_V20 : exec (.encpix 255#8 []) (test0 0xE4#8) =
    .next ((test0 0xE4#8).report (.fault (.invalidChannelError 255#8))) := rfl
/-- Both causes at once (V21), and the length alone (V22). -/
theorem test_encpix_V21_V22 (p : List Pixel) (h : p.length = 65536) :
    outcomeOf (exec (.encpix 255#8 p) (test0 0xE4#8)) = some (.fault (.invalidChannelError 255#8)) ∧
    outcomeOf (exec (.encpix 0#8 p) (test0 0xE4#8)) = some (.fault (.encodingError 65536)) := by
  have e : orderLegal (test0 0xE4#8).cfg.order = true := by decide
  constructor
  · rcases exec_encpix_cases 255#8 p (test0 0xE4#8) with ⟨h', _⟩ | ⟨_, _, r⟩ | ⟨_, h', _⟩ | ⟨_, h', _⟩
    · rw [e] at h'; cases h'
    · rw [r]; rfl
    · exact absurd rfl h'
    · exact absurd rfl h'
  · rcases exec_encpix_cases 0#8 p (test0 0xE4#8) with ⟨h', _⟩ | ⟨_, h', _⟩ | ⟨_, _, _, r⟩ | ⟨_, _, h', _⟩
    · rw [e] at h'; cases h'
    · exact absurd h' (by decide)
    · rw [r, h]; rfl
    · rw [h] at h'; exact absurd h' (by decide)
theorem test_encpix_V23 : refusalOf (exec (.encpix 0#8 [⟨1#8, 2#8, 3#8, 4#8⟩]) (test0 0xE5#8)) =
    some .orderNotPermutation := by decide

/-! The byte-serial datapath gives the bytes of V14 in 24 steps. -/

theorem test_serial_V14 :
    let m := Serial.run (testCfg 0xE1#8) (.encpix 0#8 [⟨1#8, 2#8, 3#8, 4#8⟩]) 24 (Serial.start 5#32 6 7)
    m.phase = .done ∧ m.pos = 18 ∧ m.left = 0 ∧ m.frame =
      [0x55#8, 0x50#8, 0x58#8, 0x4C#8, 0x00#8, 0x01#8, 0x04#8, 0xE1#8, 0x01#8, 0x00#8, 0x02#8, 0x01#8, 0x03#8, 0x04#8,
       0x45#8, 0x1D#8, 0x8D#8, 0xE7#8] := by decide +kernel
theorem test_serial_V20 :
    let m := Serial.run (testCfg 0xE1#8) (.encpix 255#8 []) 19 (Serial.start 5#32 6 7)
    m.phase = .faulted ∧ m.frame = [] ∧ m.error = some (.invalidChannelError 255#8) := by decide

/-! Frames: words written out from 30_encoding.md R72, R73 and the vectors V30 to V39c. -/

/-- The bytes of V17. -/
def testV17 : List Byte :=
  [0x55#8, 0x50#8, 0x58#8, 0x4C#8, 0x07#8, 0x01#8, 0x04#8, 0xE1#8, 0x02#8, 0x00#8, 0x22#8, 0x11#8, 0x33#8, 0x44#8,
   0xBB#8, 0xAA#8, 0xCC#8, 0xDD#8, 0x54#8, 0x41#8, 0x59#8, 0xE4#8]

theorem test_decode_latch : decode Config.defaultMagic
    [0x55#8, 0x50#8, 0x58#8, 0x4C#8, 0xFF#8, 0x02#8, 0x9B#8, 0x38#8, 0x81#8, 0xDF#8, 0x77#8] =
    .frame (.latch 0xDF81389B#32) [0x77#8] := by decide
theorem test_decode_pixel : decode Config.defaultMagic testV17 =
    .frame (.pixel 7#8 0xE1#8 [⟨0x22#8, 0x11#8, 0x33#8, 0x44#8⟩, ⟨0xBB#8, 0xAA#8, 0xCC#8, 0xDD#8⟩] 0xE4594154#32) [] := by
  decide
theorem test_encode_pixel : encode Config.defaultMagic
    (.pixel 7#8 0xE1#8 [⟨0x22#8, 0x11#8, 0x33#8, 0x44#8⟩, ⟨0xBB#8, 0xAA#8, 0xCC#8, 0xDD#8⟩] 0xE4594154#32) =
    some testV17 := by decide
theorem test_encode_latch : encode Config.defaultMagic (.latch 0xDF81389B#32) = some
    [0x55#8, 0x50#8, 0x58#8, 0x4C#8, 0xFF#8, 0x02#8, 0x9B#8, 0x38#8, 0x81#8, 0xDF#8] := by decide
/-- No operation has bytes (R83). -/
theorem test_encode_operations : [Instr.encpix 0#8 [], .enclatch, .ralloc 1 false, .rmap 0 0, .rset 0 0 black, .rnum 0].map
    (encode Config.defaultMagic) = [none, none, none, none, none, none] := by decide
theorem test_frameLen_V30_V35 : [[], [0x55#8, 0x50#8, 0x58#8, 0x4C#8, 0xFF#8],
      [0x55#8, 0x50#8, 0x58#8, 0x4C#8, 0xFF#8, 0x02#8], [0x55#8, 0x50#8, 0x58#8, 0x4C#8, 0x00#8, 0x01#8],
      [0x55#8, 0x50#8, 0x58#8, 0x4C#8, 0x00#8, 0x01#8, 0x04#8, 0xE1#8, 0x02#8, 0x01#8],
      [0x55#8, 0x50#8, 0x58#8, 0x4C#8, 0xFE#8, 0x01#8, 0x04#8, 0xE4#8, 0xFF#8, 0xFF#8]].map
      (frameLen Config.defaultMagic) =
    [.needMore, .needMore, .len 10, .needMore, .len 1046, .len 262154] := by decide
theorem test_frameLen_V36_V39a : [[0x55#8, 0x50#8, 0x58#8, 0x4D#8, 0xFF#8, 0x02#8],
      [0x55#8, 0x50#8, 0x58#8, 0x4C#8, 0xFF#8, 0x01#8, 0x04#8, 0xE4#8, 0x00#8, 0x00#8],
      [0x55#8, 0x50#8, 0x58#8, 0x4C#8, 0x00#8, 0x02#8],
      [0x55#8, 0x50#8, 0x58#8, 0x4C#8, 0x00#8, 0x01#8, 0x03#8, 0xE4#8, 0x01#8, 0x00#8],
      [0x55#8, 0x50#8, 0x58#8, 0x4C#8, 0x05#8, 0x03#8]].map (frameLen Config.defaultMagic) =
    [.notAFrame .wrongMagic, .notAFrame .channelType, .notAFrame .channelType, .notAFrame .elementCount,
     .notAFrame .channelType] := by decide
/-- V39b: the reader reads the operand back, and the trailer checks. -/
theorem test_step_reads_V39b : outcomeOf (step ((test0 0xE1#8).setRx testV17)) = some (.ok (.reading
    { channel := 7#8, recType := 1#8, elemCount := some 4#8, order := some 0xE1#8, count := some 2,
      payload := [⟨0x22#8, 0x11#8, 0x33#8, 0x44#8⟩, ⟨0xBB#8, 0xAA#8, 0xCC#8, 0xDD#8⟩],
      pixels := [⟨0x11#8, 0x22#8, 0x33#8, 0x44#8⟩, ⟨0xAA#8, 0xBB#8, 0xCC#8, 0xDD#8⟩],
      trailer := 0xE4594154#32, crcOk := true })) := by decide +kernel
/-- V39c: one payload byte changed. -/
theorem test_crcOk_V39c : (pixelReading (testCfg 0xE1#8) 7#8 0xE1#8
    [⟨0x23#8, 0x11#8, 0x33#8, 0x44#8⟩, ⟨0xBB#8, 0xAA#8, 0xCC#8, 0xDD#8⟩] 0xE4594154#32).crcOk = false := by
  decide +kernel
theorem test_step_not_a_frame : refusalOf (step ((test0 0xE1#8).setRx [0x55#8, 0x50#8, 0x58#8, 0x4C#8, 0x05#8, 0x03#8])) =
    some (.notAFrame .channelType) := by decide
theorem test_parse_stream : parseStream Config.defaultMagic (testV17 ++
      [0x55#8, 0x50#8, 0x58#8, 0x4C#8, 0xFF#8, 0x02#8, 0x9B#8, 0x38#8, 0x81#8, 0xDF#8]) =
    some [.pixel 7#8 0xE1#8 [⟨0x22#8, 0x11#8, 0x33#8, 0x44#8⟩, ⟨0xBB#8, 0xAA#8, 0xCC#8, 0xDD#8⟩] 0xE4594154#32,
      .latch 0xDF81389B#32] := by decide +kernel

/-! Words of the opcode table. -/

/-- The LATCH row's six bytes, the trailer zero. -/
theorem test_table_word_latch : decodeTableWord 48 0x02FF4C585055 = some (.latch 0#32) := by decide
/-- The PIXEL row's six bytes and its fixed byte 6: no pixel. -/
theorem test_table_word_pixel : decodeTableWord 80 0x0000E10401004C585055 = some (.pixel 0#8 0xE1#8 [] 0#32) := by decide
/-- Without byte 6 = 4 the bytes are no frame (R78). -/
theorem test_table_word_without_element_count : decodeTableWord 48 0x01004C585055 = none := by decide
theorem test_fetch_word : fetch (State.reset.withFetchWord 48 0x02FF4C585055) =
    .instr (.latch 0#32) (State.reset.setRx []) := rfl

/-! Unit M. -/

theorem test_map_V40_V41 : [0, 5, 15].map (mapIndex ⟨0, 16, false⟩) = [0, 5, 15] ∧
    [0, 1, 7].map (mapIndex ⟨16, 8, true⟩) = [23, 22, 16] := by decide
theorem test_unmap_V42 : [23, 22, 16].map (unmapIndex ⟨16, 8, true⟩) = [0, 1, 7] := by decide
theorem test_ralloc_V44 : outcomeOf (exec (.ralloc 8 true) ((test0 0xE1#8).addRing 16 false)) =
    some (.ok (.ring 1 16)) ∧ test44.cursor = 24 ∧ test44.nrings = 2 := by decide
theorem test_ralloc_V45_V46 : outcomeOf (exec (.ralloc 1 false) test44) = some (.fault (.allocationError .stripFull)) ∧
    outcomeOf (exec (.ralloc 0 false) test44) = some (.ok (.ring 2 24)) := by decide
/-- A full descriptor file comes first (R157). -/
theorem test_ralloc_table_full : outcomeOf (exec (.ralloc 99 false) (test44.addRing 0 false)) =
    some (.fault (.allocationError .tableFull)) := by decide
theorem test_rmap_V47_V48 : outcomeOf (exec (.rmap 1 8) test44) = some (.fault (.indexError 1 8)) ∧
    refusalOf (exec (.rmap 2 0) test44) = some (.noSuchRing 2) := by decide
theorem test_rmap_reversed : outcomeOf (exec (.rmap 1 3) test44) = some (.ok (.index 20)) := by decide
theorem test_rnum_V49 : outcomeOf (exec (.rnum 1) test44) = some (.ok (.count 8)) := by decide
theorem test_rset_V50 : (after test44 (exec (.rset 1 0 ⟨9#8, 8#8, 7#8, 6#8⟩) test44)).strip =
    [(23, ⟨9#8, 8#8, 7#8, 6#8⟩)] := by decide
theorem test_rset_V51 : exec (.rset 0 16 ⟨1#8, 1#8, 1#8, 1#8⟩) test44 =
    .next (test44.report (.fault (.indexError 0 16))) := rfl
/-- V54: an empty ring does not move the cursor. -/
theorem test_ralloc_V54 : outcomeOf (exec (.ralloc 10 true) ((test0 0xE1#8).addRing 0 true)) = some (.ok (.ring 1 0)) ∧
    outcomeOf (exec (.rmap 0 0) ((test0 0xE1#8).addRing 0 true)) = some (.fault (.indexError 0 0)) := by decide

/-! Steps and macros. -/

theorem test_step_runs_operation : step (test44.setOps [.rnum 0, .enclatch]) =
    .next ((test44.setOps [.enclatch]).report (.ok (.count 16))) := rfl
theorem test_step_idle : step test44 = .next test44 := rfl
/-- Buffers given out of order go out by ascending channel (R186); none is a lone latch. -/
theorem test_tick : tick [] = [.enclatch] ∧ tick [(1#8, [black]), (0#8, [])] = [.encpix 0#8 [], .encpix 1#8 [black], .enclatch] := by decide
theorem test_shutdown_P4 : (shutdown test44 [(0#8, 2), (1#8, 1)]).length = 27 ∧
    (shutdown test44 [(0#8, 2), (1#8, 1)]).getD 3 .enclatch = .rset 0 0 black := by decide

/-! Well-formedness: each check refuses a term. -/

theorem test_wf_channel : Instr.wellFormed (.pixel 255#8 0xE1#8 [] 0#32) = false := by decide
theorem test_wf_count (p : List Quad) (h : p.length = 65536) : Instr.wellFormed (.pixel 0#8 0xE1#8 p 0#32) = false := by
  simp only [Instr.wellFormed, h]; decide
theorem test_exec_ill_formed : refusalOf (exec (.pixel 255#8 0xE1#8 [] 0#32) (test0 0xE1#8)) = some .undefinedFrame := by
  decide

/-! Witnesses: concrete states and operands that meet the hypotheses of each obligation that has any; named
after the obligation. -/

/-- The invariant holds in the state of V44. -/
theorem witness_inv : test44.Inv := by
  have h : ∀ r, test44.ringAt r = if 0 = r then some ⟨0, 16, false⟩ else if 1 = r then some ⟨16, 8, true⟩ else none :=
    fun _ => rfl
  refine ⟨by decide, by decide, by decide, fun r => ?_, fun d hd => ?_, fun r d e hd he => ?_, by decide,
    fun r d hr hd => ?_, by decide, fun _ _ => rfl⟩
  · rw [h, show test44.nrings = 2 from rfl]; rcases r with _ | _ | r <;> simp
  · cases hd; rfl
  · rcases r with _ | _ | r
    · cases hd; cases he; rfl
    · cases he
    · simp [h] at hd
  · have : r = 1 := by change 2 = r + 1 at hr; omega
    subst this; cases hd; rfl

/-- One pixel on the largest channel is encoded. -/
theorem witness_encpix_ok : ∃ t f, exec (.encpix 254#8 [black]) test44 = .next t ∧ t.outcome = .ok (.frame f) := by
  rcases exec_encpix_cases 254#8 [black] test44 with ⟨h, _⟩ | ⟨_, h, _⟩ | ⟨_, _, h, _⟩ | ⟨_, _, _, e⟩
  · exact absurd h (by decide)
  · exact absurd h (by decide)
  · exact absurd h (by decide)
  · exact ⟨_, _, e, rfl⟩

theorem witness_enclatch_ok : ∃ t f, exec .enclatch test44 = .next t ∧ t.outcome = .ok (.frame f) :=
  ⟨_, _, exec_enclatch test44, rfl⟩

theorem witness_encpix_fault : ∃ t e, exec (.encpix 255#8 [black]) test44 = .next t ∧ t.outcome = .fault e :=
  ⟨_, _, rfl, rfl⟩

theorem witness_LittleEndianFieldsInvert : le16 65535 = [0xFF#8, 0xFF#8] ∧ un16 0xFF#8 0xFF#8 = 65535 ∧
    le32 0xDF81389B#32 = [0x9B#8, 0x38#8, 0x81#8, 0xDF#8] := by decide

/-- EncpixFollowsItsRule and EncpixIsRefusedUnderAnIllegalOrder: a legal and an illegal ORDER, and operands that
pass both checks under the second. -/
theorem witness_EncpixFollowsItsRule : orderLegal (test0 0xE1#8).cfg.order = true ∧
    orderLegal (test0 0xE5#8).cfg.order = false ∧ orderPos (test0 0xE5#8).cfg.order 0 = orderPos (test0 0xE5#8).cfg.order 1 ∧
    (0#8 : Byte) ≠ 255#8 ∧ [black].length ≤ 65535 := by decide

theorem witness_PermutePlacesEveryColourChannel : orderLegal 0xC9#8 = true ∧ 3 < 4 := by decide

theorem witness_FrameLenFollowsItsTable : Instr.wellFormed (.pixel 254#8 0xE5#8 [] 0#32) = true ∧
    encode Config.defaultMagic (.pixel 254#8 0xE5#8 [] 0#32) = some
      [0x55#8, 0x50#8, 0x58#8, 0x4C#8, 0xFE#8, 0x01#8, 0x04#8, 0xE5#8, 0x00#8, 0x00#8, 0#8, 0#8, 0#8, 0#8] := by decide

theorem witness_DecodeOfEncodeIsTheFrame : Instr.wellFormed (.latch 5#32) = true ∧
    encode Config.defaultMagic (.latch 5#32) = some
      [0x55#8, 0x50#8, 0x58#8, 0x4C#8, 0xFF#8, 0x02#8, 5#8, 0#8, 0#8, 0#8] := by decide

theorem witness_EncodeOfDecodeIsTheBytes : ∃ i rest, decode Config.defaultMagic testV17 = .frame i rest :=
  ⟨_, _, test_decode_pixel⟩

theorem witness_FrameLengthLaw : orderLegal (test0 0xE1#8).cfg.order = true ∧ (254#8 : Byte).toNat ≤ 254 ∧
    ([] : List Pixel).length ≤ 65535 := by decide

theorem witness_EncodeOperationsArePure : test44.cfg = (test0 0xE1#8).cfg ∧ test44 ≠ test0 0xE1#8 := by decide

theorem witness_OutputLogStaysReadable : (test44.setOps [.enclatch]).OutReads ∧
    ∃ t, step (test44.setOps [.enclatch]) = .next t :=
  ⟨⟨[], rfl, by simp⟩, _, exec_enclatch _⟩

theorem witness_EncodeAddsItsFrameToTheReading : parseStream test44.cfg.magic test44.out = some [] ∧
    orderLegal test44.cfg.order = true := by decide

theorem witness_PixelFrameIsRead : ((254#8 : Byte).toNat ≤ 254 ∧ [Quad.mk 0#8 0#8 0#8 0#8].length ≤ 65535) ∧
    ¬((255#8 : Byte).toNat ≤ 254) ∧ orderLegal 0xE1#8 = true := by decide

theorem witness_MapFollowsItsFormula : 7 < (RingDesc.mk 16 8 true).count ∧ 16 + 8 ≤ (testCfg 0xE1#8).stripLen := by decide

theorem witness_MapIsABijection : (16 ≤ 23 ∧ 23 < 16 + 8) ∧ mapIndex ⟨16, 8, true⟩ 0 = mapIndex ⟨16, 8, true⟩ 0 := by decide

/-- The three clauses, each at its boundary: full file, one past the strip's end, exactly at it. -/
theorem witness_RallocFollowsItsRule : (test44.addRing 0 false).nrings = (test44.addRing 0 false).cfg.ringCap ∧
    (test44.nrings ≠ test44.cfg.ringCap ∧ test44.cfg.stripLen < test44.cursor + 1) ∧
    ¬(test44.cfg.stripLen < test44.cursor + 0) := by decide

/-- The clauses of RMAP and RNUM: the first unknown ring, the first index outside, the last inside. -/
theorem witness_RmapFollowsItsRule : test44.nrings ≤ 2 ∧ ¬(test44.nrings ≤ 1) ∧
    test44.ringAt 1 = some ⟨16, 8, true⟩ ∧ 8 ≤ (RingDesc.mk 16 8 true).count ∧ ¬((RingDesc.mk 16 8 true).count ≤ 7) := by
  decide

theorem witness_RsetFollowsItsRule : test44.Inv ∧ test44.nrings ≤ 2 ∧ ¬(test44.nrings ≤ 1) ∧
    test44.ringAt 1 = some ⟨16, 8, true⟩ ∧ 8 ≤ (RingDesc.mk 16 8 true).count ∧ ¬((RingDesc.mk 16 8 true).count ≤ 7) :=
  ⟨witness_inv, witness_RmapFollowsItsRule⟩

theorem witness_RnumFollowsItsRule : test44.nrings ≤ 2 ∧ ¬(test44.nrings ≤ 1) ∧ test44.ringAt 1 = some ⟨16, 8, true⟩ := by
  decide

/-- RingInvariantIsKept, ConstructedRingsNeverChange, ConfigurationNeverChanges: a step from a state with rings. -/
theorem witness_RingInvariantIsKept : test44.Inv ∧ test44.ops = [] ∧ ∃ t, step test44 = .next t :=
  ⟨witness_inv, rfl, _, rfl⟩

theorem witness_ConstructedRingsNeverChange : 1 < (test44.setOps [.ralloc 0 true]).nrings ∧
    ∃ t, step (test44.setOps [.ralloc 0 true]) = .next t ∧ t.nrings = 3 := ⟨by decide, _, rfl, rfl⟩

theorem witness_RingsPartitionTheAllocatedStrip : test44.Inv ∧ test44.ringAt 0 = some ⟨0, 16, false⟩ ∧
    test44.ringAt 1 = some ⟨16, 8, true⟩ ∧ 15 < 16 ∧ 7 < 8 ∧ 23 < test44.cursor :=
  ⟨witness_inv, by decide, by decide, by decide, by decide, by decide⟩

theorem witness_StoreNeverTouchesAnotherRing : test44.Inv ∧ (∃ t, exec (.rset 0 15 black) test44 = .next t) ∧
    (0 : Nat) ≠ 1 ∧ test44.ringAt 1 = some ⟨16, 8, true⟩ ∧ 7 < 8 :=
  ⟨witness_inv, ⟨_, rfl⟩, by decide, by decide, by decide⟩

theorem witness_LaterStoreWins : ∃ t u, exec (.rset 1 0 black) test44 = .next t ∧
    exec (.rset 1 0 ⟨1#8, 2#8, 3#8, 4#8⟩) t = .next u ∧ t.outcome = .ok .unit := ⟨_, _, rfl, rfl, rfl⟩

theorem witness_BackToBackRingsAbut : ∃ t u, exec (.ralloc 16 false) (test0 0xE1#8) = .next t ∧
    t.outcome = .ok (.ring 0 0) ∧ exec (.ralloc 8 true) t = .next u ∧ u.outcome = .ok (.ring 1 16) :=
  ⟨_, _, rfl, rfl, rfl, rfl⟩

theorem witness_IndexWidthHoldsEveryValue : test44.Inv ∧ ∃ r d, test44.ringAt r = some d :=
  ⟨witness_inv, 1, _, rfl⟩

theorem witness_EachStateHasItsWriter : ∃ t, exec (.rset 0 15 black) test44 = .next t ∧ ∀ n rev,
    Instr.rset 0 15 black ≠ .ralloc n rev := ⟨_, rfl, fun _ _ h => by cases h⟩

/-- ErrorKindsFollowTheirTable: every kind the block raises is raised (EncodingError: test_encpix_V21_V22). -/
theorem witness_ErrorKindsFollowTheirTable :
    outcomeOf (exec (.encpix 255#8 []) test44) = some (.fault (.invalidChannelError 255#8)) ∧
    outcomeOf (exec (.rset 0 16 black) test44) = some (.fault (.indexError 0 16)) ∧
    outcomeOf (exec (.ralloc 1 false) test44) = some (.fault (.allocationError .stripFull)) ∧
    outcomeOf (exec (.ralloc 1 false) (test44.addRing 0 false)) = some (.fault (.allocationError .tableFull)) := by
  decide

theorem witness_ErrorsExactlyWhen : orderLegal test44.cfg.order = true ∧ 1 < test44.nrings ∧
    test44.ringAt 1 = some ⟨16, 8, true⟩ := by decide

theorem witness_MeaningfulInstructionsComplete : test44.Inv ∧ meaningful test44 (.rset 1 7 black) ∧
    ¬meaningful test44 (.rnum 2) := ⟨witness_inv, by unfold meaningful; decide, by unfold meaningful; decide⟩

theorem witness_StepRunsTheHostsOperation : (test44.setOps [.rnum 0]).ops = .rnum 0 :: [] := rfl

theorem witness_StepRunsTheDecodedFrame : (test44.setRx testV17).ops = [] ∧
    ∃ i rest, decode (test44.setRx testV17).cfg.magic (test44.setRx testV17).rx = .frame i rest :=
  ⟨rfl, _, _, test_decode_pixel⟩

theorem witness_StepWaitsOrRejects : test44.ops = [] ∧ test44.rx = [] ∧
    decode Config.defaultMagic [0x55#8] = .needMore ∧
    frameLen Config.defaultMagic [0x55#8, 0x50#8, 0x58#8, 0x4C#8, 0xFF#8, 0x02#8, 0x9B#8, 0x38#8, 0x81#8] = .len 10 ∧
    frameLen Config.defaultMagic [0x55#8, 0x50#8, 0x58#8, 0x4C#8, 0x05#8, 0x03#8] = .notAFrame .channelType := by decide

theorem witness_TickOutputReadsAsItsFrames : orderLegal test44.cfg.order = true ∧
    ∀ b ∈ [((0#8 : Byte), [black]), (254#8, [])], b.1.toNat ≤ 254 ∧ b.2.length ≤ 65535 := by decide

theorem witness_MacrosSendAscendingChannels : ([((254#8 : Byte), [black]), (0#8, [])].map Prod.fst).Nodup ∧
    [((0#8 : Byte), ([] : List Pixel)), (254#8, [black])].Perm [(254#8, [black]), (0#8, [])] := by decide

/-- The narrowest index of an empty strip and of one pixel, and the narrowest length. -/
theorem witness_ConfigurationsReachEveryAllowedWidth : Config.leastIdxW 0 = 0 ∧ Config.leastIdxW 1 = 1 ∧
    0 < 2 ^ 0 ∧ ¬(1 < 2 ^ 0) ∧ 1 < 2 ^ 1 ∧ (testCfg 0xE1#8).lenW = 17 := by decide

theorem witness_ShutdownClearsEveryRing : test44.Inv ∧ orderLegal test44.cfg.order = true ∧
    ∀ b ∈ [((0#8 : Byte), 2), (254#8, 65535)], b.1.toNat ≤ 254 ∧ b.2 ≤ 65535 :=
  ⟨witness_inv, by decide, by decide⟩

end Sys2Proof.Machine
end

/-!
SCOPE. The two widths of 00_scope.md R8, the byte order of R13, the order byte at reset, and which instructions
complete in a state that keeps the invariant.
-/

section

namespace Sys2Proof

namespace Config

/-- The least index width of R8 is the least: exactly the widths from it on hold STRIP_LEN. -/
theorem leastIdxW_le_iff {stripLen w : Nat} : leastIdxW stripLen ≤ w ↔ stripLen < 2 ^ w := by
  unfold leastIdxW
  split
  · next h => simp [h]
  · next h => exact Nat.succ_le_iff.trans (Nat.log2_lt h)

theorem stripLen_lt_two_pow_idxW (c : Config) : c.stripLen < 2 ^ c.idxW :=
  leastIdxW_le_iff.1 (Nat.le_add_right ..)

theorem maxCount_succ_lt_two_pow_lenW (c : Config) : 65536 < 2 ^ c.lenW :=
  calc 65536 < 2 ^ 17 := by decide
    _ ≤ 2 ^ c.lenW := Nat.pow_le_pow_right (by decide) (Nat.le_add_right ..)

end Config

/-- The two bytes of `le16` lose nothing of a number below 65536 (R13). -/
theorem le16_bytes_toNat {n : Nat} (h : n < 65536) :
    (BitVec.ofNat 8 n).toNat = n % 256 ∧ (BitVec.ofNat 8 (n / 256)).toNat = n / 256 := by
  constructor
  · exact BitVec.toNat_ofNat ..
  · rw [BitVec.toNat_ofNat]; omega

/-- A field of eight bits fits a byte. -/
theorem ofNat_bits_toNat (v lo : Nat) : (BitVec.ofNat 8 (bits v (lo + 7) lo)).toNat = bits v (lo + 7) lo := by
  rw [BitVec.toNat_ofNat, bits, show lo + 7 - lo + 1 = 8 by omega, Nat.mod_mod]

theorem un32_toNat (a b c d : Byte) :
    (un32 a b c d).toNat = a.toNat + 256 * b.toNat + 65536 * c.toNat + 16777216 * d.toNat := by
  have := a.isLt; have := b.isLt; have := c.isLt; have := d.isLt
  simp only [un32, BitVec.toNat_ofNat]; omega

theorem le32_un32 (a b c d : Byte) : le32 (un32 a b c d) = [a, b, c, d] := by
  rw [le32, le32Quad_un32, Quad.bytes]

end Sys2Proof

namespace Sys2Proof.Machine

/-- A constructed ring has a descriptor (10_state.md R26). -/
theorem State.Inv.ringAt_ne_none {s : State} (hs : s.Inv) {r : Nat} (hr : r < s.nrings) : s.ringAt r ≠ none := by
  have h := hs.valid r
  intro hnone
  simp [hnone, hr] at h

/-- Only constructed rings have a descriptor (10_state.md R26). -/
theorem State.Inv.lt_nrings {s : State} (hs : s.Inv) {r : Nat} {d : RingDesc} (hd : s.ringAt r = some d) :
    r < s.nrings := by
  simpa [hd] using hs.valid r

/-- Rings end at or below the cursor: each ends where the next one begins, and the last one ends at the cursor
(10_state.md R27 (b), (c)). The induction is on the number of rings after this one. -/
theorem State.Inv.ringEnd_le_cursor {s : State} (hs : s.Inv) {r : Nat} {d : RingDesc}
    (hd : s.ringAt r = some d) : d.offset + d.count ≤ s.cursor := by
  obtain ⟨k, hk⟩ := Nat.exists_eq_add_of_lt (hs.lt_nrings hd)
  induction k generalizing r d with
  | zero => exact (hs.last r d hk hd).ge
  | succ k ih =>
    obtain ⟨e, he⟩ := Option.ne_none_iff_exists'.1 (hs.ringAt_ne_none (r := r + 1) (by omega))
    calc d.offset + d.count = e.offset := (hs.next r d e hd he).symm
      _ ≤ e.offset + e.count := Nat.le_add_right ..
      _ ≤ s.cursor := ih he (by omega)

/-- No index a ring maps leaves the strip (20_memory.md R51). -/
theorem State.Inv.mapIndex_lt_stripLen {s : State} (hs : s.Inv) {r i : Nat} {d : RingDesc}
    (hd : s.ringAt r = some d) (hi : i < d.count) : mapIndex d i < s.cfg.stripLen :=
  calc mapIndex d i < d.offset + d.count := (mapIndex_range hi).2
    _ ≤ s.cursor := hs.ringEnd_le_cursor hd
    _ ≤ s.cfg.stripLen := hs.bound

/-- Under the invariant no instruction faults: the two faults need a constructed ring without a descriptor or an
index outside the strip, and what is not meaningful is refused. -/
theorem exec_next_or_refused {s : State} (hs : s.Inv) (i : Instr) :
    (meaningful s i ∧ ∃ t, exec i s = .next t) ∨ (¬meaningful s i ∧ ∃ why, exec i s = .refused why) := by
  cases i with
  | pixel channel order payload trailer =>
    rcases exec_pixel_cases channel order payload trailer s with ⟨h, e⟩ | ⟨h, e⟩
    · exact .inl ⟨h, _, e⟩
    · exact .inr ⟨Bool.eq_false_iff.1 h, _, e⟩
  | latch trailer => exact .inl ⟨trivial, _, exec_latch trailer s⟩
  | encpix c pixels =>
    rcases exec_encpix_cases c pixels s with ⟨h, e⟩ | ⟨h, _, e⟩ | ⟨h, _, _, e⟩ | ⟨h, _, _, e⟩
    · exact .inr ⟨Bool.eq_false_iff.1 h, _, e⟩
    · exact .inl ⟨h, _, e⟩
    · exact .inl ⟨h, _, e⟩
    · exact .inl ⟨h, _, e⟩
  | enclatch => exact .inl ⟨trivial, _, exec_enclatch s⟩
  | ralloc n rev =>
    rcases exec_ralloc_cases n rev s with ⟨_, e⟩ | ⟨_, _, e⟩ | ⟨_, _, e⟩ <;> exact .inl ⟨trivial, _, e⟩
  | rmap r k =>
    rcases exec_rmap_cases r k s with ⟨h, e⟩ | ⟨h, hnone, _⟩ | ⟨_, h, _, _, e⟩ | ⟨_, h, _, _, e⟩
    · exact .inr ⟨Nat.not_lt.2 h, _, e⟩
    · exact absurd hnone (hs.ringAt_ne_none h)
    · exact .inl ⟨h, _, e⟩
    · exact .inl ⟨h, _, e⟩
  | rset r k color =>
    rcases exec_rset_cases r k color s with ⟨h, e⟩ | ⟨h, hnone, _⟩ | ⟨_, h, _, _, e⟩ | ⟨_, _, hd, hk, hout, _⟩ |
      ⟨_, h, _, _, _, e⟩
    · exact .inr ⟨Nat.not_lt.2 h, _, e⟩
    · exact absurd hnone (hs.ringAt_ne_none h)
    · exact .inl ⟨h, _, e⟩
    · exact absurd (hs.mapIndex_lt_stripLen hd hk) (Nat.not_lt.2 hout)
    · exact .inl ⟨h, _, e⟩
  | rnum r =>
    rcases exec_rnum_cases r s with ⟨h, e⟩ | ⟨h, hnone, _⟩ | ⟨_, h, _, e⟩
    · exact .inr ⟨Nat.not_lt.2 h, _, e⟩
    · exact absurd hnone (hs.ringAt_ne_none h)
    · exact .inl ⟨h, _, e⟩

/-- Settles O40: every descriptor ends at or below the cursor, the cursor is at most STRIP_LEN, and IDX_W bits hold
STRIP_LEN. -/
theorem indexWidthHoldsEveryValue : Obligations.IndexWidthHoldsEveryValue := by
  intro s hs
  have hstrip := s.cfg.stripLen_lt_two_pow_idxW
  have hcursor : s.cursor < 2 ^ s.cfg.idxW := Nat.lt_of_le_of_lt hs.bound hstrip
  refine ⟨hstrip, hcursor, s.cfg.maxCount_succ_lt_two_pow_lenW, fun r d hd => ?_⟩
  have hend := hs.ringEnd_le_cursor hd
  exact ⟨by omega, by omega, by omega⟩

/-- Settles O50, from the two ways an instruction can end under the invariant. -/
theorem meaningfulInstructionsComplete : Obligations.MeaningfulInstructionsComplete := by
  intro i s hs
  rcases exec_next_or_refused hs i with ⟨hm, ht⟩ | ⟨hm, hwhy⟩
  · exact ⟨fun _ => ht, fun hn => absurd hm hn⟩
  · exact ⟨fun hp => absurd hp hm, fun _ => hwhy⟩

/-- Settles O59: the surplus of a width is its distance from the least one. -/
theorem configurationsReachEveryAllowedWidth : Obligations.ConfigurationsReachEveryAllowedWidth := by
  refine ⟨fun stripLen w => ⟨fun h => ?_, ?_⟩, fun w => ⟨fun h => ?_, ?_⟩⟩
  · have hle := Config.leastIdxW_le_iff.2 h
    exact ⟨{ Config.hardware with stripLen := stripLen, idxPad := w - Config.leastIdxW stripLen }, rfl,
      Nat.add_sub_cancel' hle⟩
  · rintro ⟨cfg, rfl, rfl⟩
    exact cfg.stripLen_lt_two_pow_idxW
  · exact ⟨{ Config.hardware with lenPad := w - 17 }, Nat.add_sub_cancel' h⟩
  · rintro ⟨cfg, rfl⟩
    exact Nat.le_add_right ..

/-- Settles O1: each byte is one field of the value, and the weighted sum of the bytes puts the fields together. -/
theorem littleEndianFieldsInvert : Obligations.LittleEndianFieldsInvert := by
  refine ⟨fun n h => ?_, fun w => ?_, fun a b => ⟨rfl, le16_un16 a b⟩,
    fun a b c d => ⟨un32_toNat a b c d, le32_un32 a b c d⟩⟩
  · obtain ⟨hlow, hhigh⟩ := le16_bytes_toNat h
    exact ⟨_, _, rfl, hlow, hhigh, un16_le16 h⟩
  · exact ⟨_, _, _, _, rfl, ofNat_bits_toNat _ 0, ofNat_bits_toNat _ 8, ofNat_bits_toNat _ 16,
      ofNat_bits_toNat _ 24, un32_le32Quad w⟩

/-- Settles O52: the order at reset is the hardware's, one of the listed legal values. -/
theorem resetOrderIsLegal : Obligations.ResetOrderIsLegal := by
  rw [Obligations.ResetOrderIsLegal, State.reset, State.resetWith_cfg]
  exact hardware_order_legal

end Sys2Proof.Machine
end

/-!
SCOPE. The state of 10_state.md: what an instruction can do to it, the invariant of unit M's registers over a step and
at reset, who writes what, and when ENCPIX is refused for its order byte.
-/

section

namespace Sys2Proof.Machine

/-- Everything an instruction that answers a next state can do: only report an outcome, add a frame, add a ring or
store a pixel; and which instruction does it. -/
theorem exec_next_cases {i : Instr} {s t : State} (h : exec i s = .next t) :
    (∃ o, t = s.report o) ∨
    (∃ body, ((∃ c pixels, i = .encpix c pixels) ∨ i = .enclatch) ∧ t = s.afterEncode body) ∨
    (∃ n rev, i = .ralloc n rev ∧ s.nrings ≠ s.cfg.ringCap ∧ s.cursor + n ≤ s.cfg.stripLen ∧
      t = (s.addRing n rev).report (.ok (.ring s.nrings s.cursor))) ∨
    (∃ r k color d, i = .rset r k color ∧ s.ringAt r = some d ∧ k < d.count ∧ mapIndex d k < s.cfg.stripLen ∧
      t = (s.setPixel (mapIndex d k) color).report (.ok .unit)) := by
  cases i with
  | pixel channel order payload trailer =>
    rcases exec_pixel_cases channel order payload trailer s with ⟨_, e⟩ | ⟨_, e⟩ <;> cases e.symm.trans h
    exact .inl ⟨_, rfl⟩
  | latch trailer => cases h; exact .inl ⟨_, rfl⟩
  | encpix c pixels =>
    rcases exec_encpix_cases c pixels s with ⟨_, e⟩ | ⟨_, _, e⟩ | ⟨_, _, _, e⟩ | ⟨_, _, _, e⟩ <;>
      cases e.symm.trans h
    · exact .inl ⟨_, rfl⟩
    · exact .inl ⟨_, rfl⟩
    · exact .inr (.inl ⟨_, .inl ⟨c, pixels, rfl⟩, rfl⟩)
  | enclatch =>
    cases (exec_enclatch s).symm.trans h
    exact .inr (.inl ⟨_, .inr rfl, rfl⟩)
  | ralloc n rev =>
    rcases exec_ralloc_cases n rev s with ⟨_, e⟩ | ⟨_, _, e⟩ | ⟨hcap, hlen, e⟩ <;> cases e.symm.trans h
    · exact .inl ⟨_, rfl⟩
    · exact .inl ⟨_, rfl⟩
    · exact .inr (.inr (.inl ⟨n, rev, rfl, hcap, hlen, rfl⟩))
  | rmap r k =>
    rcases exec_rmap_cases r k s with ⟨_, e⟩ | ⟨_, _, e⟩ | ⟨_, _, _, _, e⟩ | ⟨_, _, _, _, e⟩ <;>
      cases e.symm.trans h <;> exact .inl ⟨_, rfl⟩
  | rset r k color =>
    rcases exec_rset_cases r k color s with ⟨_, e⟩ | ⟨_, _, e⟩ | ⟨_, _, _, _, e⟩ | ⟨_, _, _, _, _, e⟩ |
      ⟨d, _, hd, hk, hlt, e⟩ <;> cases e.symm.trans h
    · exact .inl ⟨_, rfl⟩
    · exact .inr (.inr (.inr ⟨r, k, color, d, rfl, hd, hk, hlt, rfl⟩))
  | rnum r =>
    rcases exec_rnum_cases r s with ⟨_, e⟩ | ⟨_, _, e⟩ | ⟨_, _, _, e⟩ <;> cases e.symm.trans h
    exact .inl ⟨_, rfl⟩

/-- The invariant reads five fields only. -/
theorem State.Inv.congr {s t : State} (hs : s.Inv) (hcfg : t.cfg = s.cfg) (hcursor : t.cursor = s.cursor)
    (hnrings : t.nrings = s.nrings) (hring : t.ring = s.ring) (hstrip : t.strip = s.strip) : t.Inv := by
  cases s
  cases t
  dsimp only at hcfg hcursor hnrings hring hstrip
  subst hcfg hcursor hnrings hring hstrip
  exact ⟨hs.ringWf, hs.stripWf, hs.capacity, hs.valid, hs.first, hs.next, hs.total, hs.last, hs.bound, hs.written⟩

theorem State.Inv.report {s : State} (hs : s.Inv) (o : OpOutcome) : (s.report o).Inv := hs.congr rfl rfl rfl rfl rfl

theorem State.ringCount_eq {s : State} {r : Nat} {d : RingDesc} (hd : s.ringAt r = some d) :
    s.ringCount r = d.count := by
  rw [State.ringCount, hd]

theorem State.ringCount_congr {s t : State} {r : Nat} (h : t.ringAt r = s.ringAt r) :
    t.ringCount r = s.ringCount r := by
  rw [State.ringCount, h, ← State.ringCount]

theorem State.addRing_ringAt_same (s : State) (n : Nat) (rev : Bool) :
    (s.addRing n rev).ringAt s.nrings = some ⟨s.cursor, n, rev⟩ := by
  rw [State.addRing_ringAt, if_pos rfl]

theorem State.addRing_ringAt_of_ne (s : State) (n : Nat) (rev : Bool) {r : Nat} (hr : r ≠ s.nrings) :
    (s.addRing n rev).ringAt r = s.ringAt r := by
  rw [State.addRing_ringAt, if_neg hr.symm]

/-- The cursor is 0 while no ring is constructed (10_state.md R27 (c)). -/
theorem State.Inv.cursor_eq_zero {s : State} (hs : s.Inv) (h : s.nrings = 0) : s.cursor = 0 := by
  simpa [h] using hs.total

/-- The counts with the new ring's (10_state.md R27 (c)). -/
theorem State.addRing_counts_sum (s : State) (n : Nat) (rev : Bool) :
    ((List.range (s.nrings + 1)).map (s.addRing n rev).ringCount).sum =
      ((List.range s.nrings).map s.ringCount).sum + n := by
  have hold : (List.range s.nrings).map (s.addRing n rev).ringCount = (List.range s.nrings).map s.ringCount :=
    List.map_congr_left fun r hr =>
      State.ringCount_congr (s.addRing_ringAt_of_ne n rev (List.mem_range.1 hr).ne)
  simp [List.range_succ, hold, State.ringCount_eq (s.addRing_ringAt_same n rev)]

/-- A ring with room for it, appended at the cursor, keeps the invariant. -/
theorem State.Inv.addRing {s : State} (hs : s.Inv) {n : Nat} (rev : Bool) (hcap : s.nrings ≠ s.cfg.ringCap)
    (hlen : s.cursor + n ≤ s.cfg.stripLen) : (s.addRing n rev).Inv where
  ringWf := Memory.wf_write _ _ _ hs.ringWf
  stripWf := hs.stripWf
  capacity := Nat.lt_of_le_of_ne hs.capacity hcap
  valid r := by
    by_cases hr : r = s.nrings
    · subst hr; simp [s.addRing_ringAt_same]
    · rw [s.addRing_ringAt_of_ne n rev hr, hs.valid, State.addRing_nrings]
      exact decide_eq_decide.2 (by omega)
  first d hd := by
    by_cases h0 : 0 = s.nrings
    · rw [h0, s.addRing_ringAt_same] at hd
      cases hd
      exact hs.cursor_eq_zero h0.symm
    · exact hs.first d (s.addRing_ringAt_of_ne n rev h0 ▸ hd)
  next r d e hd he := by
    by_cases hr : r = s.nrings
    · rw [s.addRing_ringAt_of_ne n rev (by omega)] at he
      exact absurd (hs.lt_nrings he) (by omega)
    · rw [s.addRing_ringAt_of_ne n rev hr] at hd
      by_cases hr' : r + 1 = s.nrings
      · rw [hr', s.addRing_ringAt_same] at he
        cases he
        exact hs.last r d hr'.symm hd
      · exact hs.next r d e hd (s.addRing_ringAt_of_ne n rev hr' ▸ he)
  total := by
    rw [State.addRing_nrings, s.addRing_counts_sum n rev, ← hs.total, State.addRing_cursor]
  last r d hr hd := by
    obtain rfl : s.nrings = r := Nat.succ.inj hr
    rw [s.addRing_ringAt_same] at hd
    cases hd
    rfl
  bound := hlen
  written g hg := hs.written g (Nat.le_trans (Nat.le_add_right ..) hg)

/-- A store below the cursor keeps the invariant. -/
theorem State.Inv.setPixel {s : State} (hs : s.Inv) {g : Nat} (hg : g < s.cursor) (color : Pixel) :
    (s.setPixel g color).Inv where
  ringWf := hs.ringWf
  stripWf := Memory.wf_write _ _ _ hs.stripWf
  capacity := hs.capacity
  valid := hs.valid
  first := hs.first
  next := hs.next
  total := hs.total
  last := hs.last
  bound := hs.bound
  written j hj := by
    rw [State.setPixel_stripAt, if_neg (Nat.lt_of_lt_of_le hg hj).ne]
    exact hs.written j hj

theorem exec_keeps_inv {i : Instr} {s t : State} (hs : s.Inv) (h : exec i s = .next t) : t.Inv := by
  rcases exec_next_cases h with ⟨o, rfl⟩ | ⟨body, _, rfl⟩ | ⟨n, rev, _, hcap, hlen, rfl⟩ |
    ⟨r, k, color, d, _, hd, hk, _, rfl⟩
  · exact hs.report o
  · exact hs.congr rfl rfl rfl rfl rfl
  · exact (hs.addRing rev hcap hlen).report _
  · have hg : mapIndex d k < s.cursor := Nat.lt_of_lt_of_le (mapIndex_range hk).2 (hs.ringEnd_le_cursor hd)
    exact (hs.setPixel hg color).report _

/-- Settles O33: taking the next instruction from its queue leaves the invariant's fields, and every instruction
keeps the invariant. -/
theorem ringInvariantIsKept : Obligations.RingInvariantIsKept := by
  intro s t hs h
  rcases step_next_cases h with ⟨_, ops, _, h⟩ | ⟨_, rx, _, _, h⟩ | ⟨_, _, rfl⟩
  · exact exec_keeps_inv (s := s.setOps ops) (hs.congr rfl rfl rfl rfl rfl) h
  · exact exec_keeps_inv (s := s.setRx rx) (hs.congr rfl rfl rfl rfl rfl) h
  · exact hs

theorem State.resetWith_inv (cfg : Config) : (State.resetWith cfg).Inv where
  ringWf := .nil
  stripWf := .nil
  capacity := Nat.zero_le _
  valid r := by simp
  first d hd := by simp at hd
  next r d e hd he := by simp at hd
  total := rfl
  last r d hr hd := by simp at hd
  bound := Nat.zero_le _
  written g _ := rfl

/-- Settles O34: with no ring and nothing written, each clause is about an empty memory or 0. -/
theorem ringInvariantAtReset : Obligations.RingInvariantAtReset :=
  ⟨State.resetWith_inv Config.hardware, State.resetWith_inv⟩

theorem exec_cfg {i : Instr} {s t : State} (h : exec i s = .next t) : t.cfg = s.cfg := by
  rcases exec_next_cases h with ⟨_, rfl⟩ | ⟨_, _, rfl⟩ | ⟨_, _, _, _, _, rfl⟩ | ⟨_, _, _, _, _, _, _, _, rfl⟩ <;> rfl

/-- Settles O42: an instruction writes no configuration, and neither does taking it from its queue. -/
theorem configurationNeverChanges : Obligations.ConfigurationNeverChanges := by
  intro s t h
  rcases step_next_cases h with ⟨_, _, _, h⟩ | ⟨_, _, _, _, h⟩ | ⟨_, _, rfl⟩
  · exact (exec_cfg h).trans (s.setOps_cfg _)
  · exact (exec_cfg h).trans (s.setRx_cfg _)
  · rfl

/-- A constructed ring keeps its descriptor (10_state.md R26): a new ring's entry is the one at the old `nrings`. -/
theorem exec_keeps_rings {i : Instr} {s t : State} (h : exec i s = .next t) :
    s.nrings ≤ t.nrings ∧ ∀ r, r < s.nrings → t.ringAt r = s.ringAt r := by
  rcases exec_next_cases h with ⟨o, rfl⟩ | ⟨body, _, rfl⟩ | ⟨n, rev, _, _, _, rfl⟩ | ⟨_, _, _, _, _, _, _, _, rfl⟩
  · exact ⟨le_rfl, fun _ _ => rfl⟩
  · exact ⟨le_rfl, fun _ _ => rfl⟩
  · exact ⟨Nat.le_succ _, fun r hr => s.addRing_ringAt_of_ne n rev hr.ne⟩
  · exact ⟨le_rfl, fun _ _ => rfl⟩

/-- Settles O39: what an instruction does to the rings, from the state it leaves its queue in. -/
theorem constructedRingsNeverChange : Obligations.ConstructedRingsNeverChange := by
  intro s t h
  rcases step_next_cases h with ⟨_, _, _, h⟩ | ⟨_, _, _, _, h⟩ | ⟨_, _, rfl⟩
  · simpa using exec_keeps_rings h
  · simpa using exec_keeps_rings h
  · exact ⟨le_rfl, fun _ _ => rfl⟩

/-- Settles O41: of the four things an instruction can do, adding a frame writes unit E's state, adding a ring unit
M's registers and storing a pixel the strip, each by its own instruction; the rest of the state is as before. -/
theorem eachStateHasItsWriter : Obligations.EachStateHasItsWriter := by
  intro i s t h
  have hE : sameUnitE s s := ⟨rfl, rfl, rfl, rfl⟩
  rcases exec_next_cases h with ⟨o, rfl⟩ | ⟨body, hi, rfl⟩ | ⟨n, rev, hi, _, _, rfl⟩ |
    ⟨r, k, color, d, hi, _, _, _, rfl⟩
  · exact ⟨le_rfl, le_rfl, List.prefix_rfl, fun _ => ⟨rfl, rfl, fun _ => rfl⟩, fun _ _ => rfl, fun _ _ => hE⟩
  · refine ⟨le_rfl, le_rfl, List.prefix_append .., fun _ => ⟨rfl, rfl, fun _ => rfl⟩, fun _ _ => rfl,
      fun hpix hlatch => ?_⟩
    rcases hi with ⟨c, pixels, hi⟩ | hi
    · exact absurd hi (hpix c pixels)
    · exact absurd hi hlatch
  · exact ⟨Nat.le_add_right .., Nat.le_succ _, List.prefix_rfl, fun hne => absurd hi (hne n rev), fun _ _ => rfl,
      fun _ _ => hE⟩
  · exact ⟨le_rfl, le_rfl, List.prefix_rfl, fun _ => ⟨rfl, rfl, fun _ => rfl⟩,
      fun hne => absurd hi (hne r k color), fun _ _ => hE⟩

/-- A RALLOC that ends Ok answers the new ring's id and offset and does the writes of 41_mapper.md R133. -/
theorem exec_ralloc_ok {n r off : Nat} {rev : Bool} {s t : State} (h : exec (.ralloc n rev) s = .next t)
    (ho : t.outcome = .ok (.ring r off)) :
    r = s.nrings ∧ off = s.cursor ∧ t = (s.addRing n rev).report (.ok (.ring r off)) := by
  rcases exec_ralloc_cases n rev s with ⟨_, e⟩ | ⟨_, _, e⟩ | ⟨_, _, e⟩ <;> cases e.symm.trans h <;> cases ho
  exact ⟨rfl, rfl, rfl⟩

/-- Settles O38: the first RALLOC leaves the cursor at the end of its ring, where the second one's ring begins. -/
theorem backToBackRingsAbut : Obligations.BackToBackRingsAbut := by
  intro s t u n m r off q off' a b ht hto hu huo
  obtain ⟨rfl, rfl, rfl⟩ := exec_ralloc_ok ht hto
  have hkept := (exec_keeps_rings hu).2 s.nrings (Nat.lt_succ_self _)
  obtain ⟨hq, hoff, -⟩ := exec_ralloc_ok hu huo
  exact ⟨hq, hoff, ⟨s.cursor, n, a⟩, hkept.trans (s.addRing_ringAt_same n a), rfl, rfl⟩

/-- An order byte is legal when its position fields are injective (10_state.md R23). -/
theorem orderLegal_iff (order : Byte) :
    orderLegal order = true ↔ ∀ j k, j < 4 → k < 4 → j ≠ k → orderPos order j ≠ orderPos order k := by
  have hnodup : orderLegal order = true ↔ ((List.range 4).map (orderPos order)).Nodup := decide_eq_true_iff
  rw [hnodup, List.nodup_map_iff_inj_on List.nodup_range]
  simp only [List.mem_range]
  exact ⟨fun h j k hj hk hne heq => hne (h j hj k hk heq), fun h j hj k hk => not_imp_not.1 (h j k hj hk)⟩

theorem orderLegal_eq_false_iff (order : Byte) :
    orderLegal order = false ↔ ∃ j k, j < 4 ∧ k < 4 ∧ j ≠ k ∧ orderPos order j = orderPos order k := by
  rw [← Bool.not_eq_true, orderLegal_iff]
  push Not
  rfl

theorem exec_encpix_refused_iff (c : Byte) (pixels : List Pixel) (s : State) :
    exec (.encpix c pixels) s = .refused .orderNotPermutation ↔ orderLegal s.cfg.order = false := by
  rcases exec_encpix_cases c pixels s with ⟨h, e⟩ | ⟨h, _, e⟩ | ⟨h, _, _, e⟩ | ⟨h, _, _, e⟩ <;> simp [h, e]

/-- Settles O11: the legality of ORDER is what ENCPIX tests first. -/
theorem encpixIsRefusedUnderAnIllegalOrder : Obligations.EncpixIsRefusedUnderAnIllegalOrder := by
  intro s c pixels
  rw [exec_encpix_refused_iff, orderLegal_eq_false_iff]

theorem orderPos_eq_div_mod (order : Byte) (k : Nat) : orderPos order k = order.toNat / 4 ^ k % 4 := by
  rw [orderPos, bits, show 2 * k + 1 - 2 * k + 1 = 2 by omega, pow_mul]
  rfl

/-- The order byte put together again from its four fields (30_encoding.md R74). -/
theorem orderByte_orderPos (order : Byte) :
    orderByte (orderPos order 0) (orderPos order 1) (orderPos order 2) (orderPos order 3) = order := by
  have hlt := order.isLt
  apply BitVec.eq_of_toNat_eq
  simp only [orderByte, orderPos_eq_div_mod, BitVec.toNat_ofNat]
  omega

/-- Settles O2: each field is a base-4 digit of the byte. -/
theorem orderByteHasFourPositionFields : Obligations.OrderByteHasFourPositionFields := by
  refine ⟨fun order => ?_, orderByte_orderPos, orderLegal_iff, by decide, by decide⟩
  simp [orderPos_eq_div_mod]

/-- Settles O51: the values of 10_state.md R35 are those `State.resetWith` is written with. -/
theorem resetLeavesTheStatedValues : Obligations.ResetLeavesTheStatedValues := by
  refine ⟨fun cfg => ?_, Config.hardware, rfl⟩
  exact ⟨State.resetWith_cfg cfg, State.resetWith_cursor cfg, State.resetWith_nrings cfg, State.resetWith_ringAt cfg,
    State.resetWith_stripAt cfg, State.resetWith_out cfg⟩

/-- An operation waiting is fetched before anything else (10_state.md R20). -/
theorem fetch_of_ops {s : State} {i : Instr} {rest : List Instr} (h : s.ops = i :: rest) :
    fetch s = .instr i (s.setOps rest) := by
  rw [fetch, h]

/-- Settles O53: a step executes what it fetches. -/
theorem stepRunsTheHostsOperation : Obligations.StepRunsTheHostsOperation := by
  intro s i rest h
  rw [step, fetch_of_ops h]

end Sys2Proof.Machine
end

/-!
SCOPE. The memory of 20_memory.md: what a completed RSET stored, when an RSET completes, and two stores to one pixel.
-/

section

namespace Sys2Proof.Machine

/-- The later of two stores to one pixel decides every element (20_memory.md R60). -/
theorem State.setPixel_setPixel_stripAt (s : State) (g : Nat) (p q : Pixel) (j : Nat) :
    ((s.setPixel g p).setPixel g q).stripAt j = (s.setPixel g q).stripAt j := by
  simp only [State.setPixel_stripAt]
  split <;> rfl

/-- An RSET inside a constructed ring and the strip completes with its store (41_mapper.md R135). -/
theorem exec_rset_eq {r i : Nat} {s : State} {d : RingDesc} (color : Pixel) (hr : r < s.nrings)
    (hd : s.ringAt r = some d) (hi : i < d.count) (hg : mapIndex d i < s.cfg.stripLen) :
    exec (.rset r i color) s = .next ((s.setPixel (mapIndex d i) color).report (.ok .unit)) := by
  rw [exec, execRset, withIndex, withRing_eq _ hr hd, if_neg (Nat.not_le.2 hi), memWrite_eq hg]

/-- An RSET that ends Ok was inside a constructed ring and the strip, and did its store. -/
theorem exec_rset_ok {r i : Nat} {color : Pixel} {s t : State} (h : exec (.rset r i color) s = .next t)
    (ho : t.outcome = .ok .unit) :
    ∃ d, r < s.nrings ∧ s.ringAt r = some d ∧ i < d.count ∧ mapIndex d i < s.cfg.stripLen ∧
      t = (s.setPixel (mapIndex d i) color).report (.ok .unit) := by
  rcases exec_rset_cases r i color s with ⟨_, e⟩ | ⟨_, _, e⟩ | ⟨_, _, _, _, e⟩ | ⟨_, _, _, _, _, e⟩ |
    ⟨d, hr, hd, hi, hg, e⟩ <;> cases e.symm.trans h
  · cases ho
  · exact ⟨d, hr, hd, hi, hg, rfl⟩

/-- Settles O37: a store changes neither the rings nor the configuration, so the second RSET, and the same RSET run
alone, store at the global index of the first. -/
theorem laterStoreWins : Obligations.LaterStoreWins := by
  intro s t u r i p q ht hu ho
  obtain ⟨d, hr, hd, hi, hg, rfl⟩ := exec_rset_ok ht ho
  obtain rfl := Host.Outcome.next.inj (hu.symm.trans (exec_rset_eq q hr hd hi hg))
  refine ⟨rfl, _, exec_rset_eq q hr hd hi hg, s.setPixel_setPixel_stripAt _ p q, ?_⟩
  rintro rfl
  exact s.setPixel_setPixel_stripAt _ p p

end Sys2Proof.Machine
end

/-!
SCOPE. The wire frames of 30_encoding.md: what `FrameLen` answers on each header, which byte sequences begin with a
frame, and that encoder and decoder invert each other.
-/

section

namespace Sys2Proof

section FrameLen

variable {magic : Quad}

theorem frameLen_of_length_lt {s : List Byte} (h : s.length < 6) : frameLen magic s = .needMore := by
  match s, h with
  | [], _ | [_], _ | [_, _], _ | [_, _, _], _ | [_, _, _, _], _ | [_, _, _, _, _], _ => rfl
  | _ :: _ :: _ :: _ :: _ :: _ :: _, h => simp only [List.length_cons] at h; omega

theorem frameLen_of_wrong_magic {s : List Byte} (h : 6 ≤ s.length) (hm : s.take 4 ≠ magic.bytes) :
    frameLen magic s = .notAFrame .wrongMagic := by
  match s, h, hm with
  | m0 :: m1 :: m2 :: m3 :: _ :: _ :: _, _, hm =>
    have hne : Quad.mk m0 m1 m2 m3 ≠ magic := by
      rintro rfl
      exact hm rfl
    simp [frameLen, hne]

theorem frameLen_latch (rest : List Byte) :
    frameLen magic (magic.bytes ++ Config.chLatch :: Config.typeLatch :: rest) = .len 10 := by
  simp [frameLen, Quad.bytes]

theorem frameLen_pixel_short {c : Byte} (hc : c.toNat ≤ 254) {rest : List Byte} (h : rest.length < 4) :
    frameLen magic (magic.bytes ++ c :: Config.typePixel :: rest) = .needMore := by
  match rest, h with
  | [], _ | [_], _ | [_, _], _ | [_, _, _], _ =>
    simp [frameLen, Quad.bytes, Config.typePixel, Config.typeLatch, Config.chMax, hc]

theorem frameLen_pixel {c : Byte} (hc : c.toNat ≤ 254) (e o n0 n1 : Byte) (rest : List Byte) :
    frameLen magic (magic.bytes ++ c :: Config.typePixel :: e :: o :: n0 :: n1 :: rest) =
      if e ≠ Config.epp then .notAFrame .elementCount else .len (14 + 4 * un16 n0 n1) := by
  simp [frameLen, Quad.bytes, Config.typePixel, Config.typeLatch, Config.chMax, hc]

theorem frameLen_of_other_type {c t : Byte} (hlatch : ¬(t = Config.typeLatch ∧ c = Config.chLatch))
    (hpixel : ¬(t = Config.typePixel ∧ c.toNat ≤ Config.chMax)) (rest : List Byte) :
    frameLen magic (magic.bytes ++ c :: t :: rest) = .notAFrame .channelType := by
  simp [frameLen, Quad.bytes, hlatch, hpixel]

/-- The headers for which `FrameLen` gives a length. -/
theorem frameLen_len_cases {s : List Byte} {n : Nat} (h : frameLen magic s = .len n) :
    (∃ rest, s = magic.bytes ++ Config.chLatch :: Config.typeLatch :: rest ∧ n = 10) ∨
    (∃ c o n0 n1 rest, c.toNat ≤ 254 ∧ n = 14 + 4 * un16 n0 n1 ∧
      s = magic.bytes ++ c :: Config.typePixel :: Config.epp :: o :: n0 :: n1 :: rest) := by
  unfold frameLen at h
  split at h
  · next m0 m1 m2 m3 c t rest =>
    split at h
    · cases h
    next hm =>
    obtain rfl := not_not.1 hm
    split at h
    · next hlatch =>
      obtain ⟨rfl, rfl⟩ := hlatch
      cases h
      exact .inl ⟨rest, rfl, rfl⟩
    split at h
    · next hpixel =>
      obtain ⟨rfl, hc⟩ := hpixel
      split at h
      · next e o n0 n1 rest =>
        split at h
        · cases h
        next he =>
        obtain rfl := not_not.1 he
        cases h
        exact .inr ⟨c, o, n0, n1, rest, hc, rfl, rfl⟩
      · cases h
    · cases h
  · cases h

end FrameLen

section Positions

variable {s : List Byte}

/-- A sequence with a record header, by positions (30_encoding.md R71). -/
theorem eq_magic_append {magic : Quad} (h : 6 ≤ s.length) (hm : s.take 4 = magic.bytes) :
    s = magic.bytes ++ byteAt s 4 :: byteAt s 5 :: s.drop 6 := by
  match s, h with
  | m0 :: m1 :: m2 :: m3 :: c :: t :: rest, _ => rw [← hm]; rfl

/-- A sequence with a whole PIXEL header, past its record header (30_encoding.md R72). -/
theorem drop_six_eq (h : 10 ≤ s.length) :
    s.drop 6 = byteAt s 6 :: byteAt s 7 :: byteAt s 8 :: byteAt s 9 :: s.drop 10 := by
  match s, h with
  | _ :: _ :: _ :: _ :: _ :: _ :: _ :: _ :: _ :: _ :: _, _ => rfl

/-- `FrameLen` on a PIXEL record header, by positions (30_encoding.md R78). -/
theorem frameLen_of_pixel_header {magic : Quad} {c : Byte} (h : 10 ≤ s.length)
    (hs : s = magic.bytes ++ c :: Config.typePixel :: s.drop 6) (hc : c.toNat ≤ 254) :
    frameLen magic s = if byteAt s 6 ≠ Config.epp then .notAFrame .elementCount
      else .len (14 + 4 * un16 (byteAt s 8) (byteAt s 9)) := by
  rw [drop_six_eq h] at hs
  exact (congrArg (frameLen magic) hs).trans (frameLen_pixel hc ..)

theorem byteAt_append_add (body t : List Byte) (k : Nat) : byteAt (body ++ t) (body.length + k) = byteAt t k := by
  rw [byteAt, List.getD_append_right _ _ _ _ (Nat.le_add_right ..), Nat.add_sub_cancel_left, byteAt]

/-- The trailer is the four bytes after the body (30_encoding.md R77, R79). -/
theorem trailerOf_append (body rest : List Byte) (w : Word) :
    trailerOf (body ++ (le32 w ++ rest)) (body.length + 4) = w := by
  have hbytes : trailerOf (body ++ (le32 w ++ rest)) (body.length + 4) =
      un32 (byteAt (body ++ (le32 w ++ rest)) (body.length + 0)) (byteAt (body ++ (le32 w ++ rest)) (body.length + 1))
        (byteAt (body ++ (le32 w ++ rest)) (body.length + 2)) (byteAt (body ++ (le32 w ++ rest)) (body.length + 3)) :=
    rfl
  simp only [hbytes, byteAt_append_add]
  exact un32_le32Quad w

end Positions

section Frames

variable {magic : Quad}

theorem latchBody_append (s : List Byte) :
    latchBody magic ++ s = magic.bytes ++ Config.chLatch :: Config.typeLatch :: s := rfl

theorem pixelBody_append (c o : Byte) (payload : List Quad) (s : List Byte) :
    pixelBody magic c o payload ++ s = magic.bytes ++ c :: Config.typePixel :: Config.epp :: o ::
      BitVec.ofNat 8 payload.length :: BitVec.ofNat 8 (payload.length / 256) :: (payloadBytes payload ++ s) := by
  simp [pixelBody, le16]

theorem encode_length {i : Instr} {f : List Byte} (hf : encode magic i = some f) :
    f.length = Laws.FrameSize.size i := by
  cases i with
  | pixel c o payload trailer => simpa [hf, Instr.isFrame] using Laws.FrameSize.pixel c o payload trailer magic
  | latch trailer => simpa [hf, Instr.isFrame] using Laws.FrameSize.latch trailer magic
  | _ => cases hf

/-- `FrameLen` is right on every frame, whatever follows it (30_encoding.md R78). -/
theorem frameLen_encode {i : Instr} {f : List Byte} (hi : i.wellFormed = true) (hf : encode magic i = some f)
    (s : List Byte) : frameLen magic (f ++ s) = .len f.length := by
  rw [encode_length hf]
  cases i with
  | pixel c o payload trailer =>
    obtain ⟨hc, hlen⟩ := (wellFormed_pixel ..).1 hi
    obtain rfl := Option.some.inj hf
    rw [List.append_assoc, pixelBody_append, frameLen_pixel hc, if_neg (not_not.2 rfl), un16_le16 (by omega)]
    rfl
  | latch trailer =>
    obtain rfl := Option.some.inj hf
    exact frameLen_latch _
  | _ => cases hf

theorem headerParse_latch (trailer : Word) (rest : List Byte) :
    headerParse (latchBody magic ++ (le32 trailer ++ rest)) 10 = .latch trailer := by
  have htype : byteAt (latchBody magic ++ (le32 trailer ++ rest)) 5 = Config.typeLatch := rfl
  have htrailer := trailerOf_append (latchBody magic) rest trailer
  rw [latchBody_length] at htrailer
  rw [headerParse, if_pos htype, htrailer]

theorem headerParse_pixel (c o : Byte) (payload : List Quad) (trailer : Word) (rest : List Byte) :
    headerParse (pixelBody magic c o payload ++ (le32 trailer ++ rest)) (14 + 4 * payload.length) =
      .pixel c o payload trailer := by
  have hlen : 14 + 4 * payload.length = (pixelBody magic c o payload).length + 4 := by
    rw [pixelBody_length]; omega
  have hpayload : (pixelBody magic c o payload).drop 10 = payloadBytes payload := rfl
  rw [headerParse, hlen, trailerOf_append, Nat.add_sub_cancel, List.take_left' rfl, hpayload, groups_payloadBytes]
  rfl

/-- A frame's header is read back from its bytes (30_encoding.md R79). -/
theorem headerParse_encode {i : Instr} {f : List Byte} (hf : encode magic i = some f) (rest : List Byte) :
    headerParse (f ++ rest) f.length = i := by
  rw [encode_length hf]
  cases i with
  | pixel c o payload trailer =>
    obtain rfl := Option.some.inj hf
    rw [List.append_assoc]
    exact headerParse_pixel c o payload trailer rest
  | latch trailer =>
    obtain rfl := Option.some.inj hf
    rw [List.append_assoc]
    exact headerParse_latch trailer rest
  | _ => cases hf

theorem decode_encode {i : Instr} {f : List Byte} (hi : i.wellFormed = true) (hf : encode magic i = some f)
    (rest : List Byte) : decode magic (f ++ rest) = .frame i rest := by
  have hlen : ¬(f ++ rest).length < f.length := by simp
  simp only [decode, frameLen_encode hi hf, if_neg hlen, headerParse_encode hf, List.drop_left]

theorem encode_isSome (i : Instr) : (encode magic i).isSome = i.isFrame := by
  cases i <;> rfl

theorem exists_le32_append {s : List Byte} (h : 4 ≤ s.length) : ∃ w rest, s = le32 w ++ rest := by
  match s, h with
  | a :: b :: c :: d :: rest, _ => exact ⟨un32 a b c d, rest, by rw [le32_un32]; rfl⟩

theorem exists_payloadBytes_append {s : List Byte} {n : Nat} (h : 4 * n ≤ s.length) :
    ∃ payload rest, payload.length = n ∧ s = payloadBytes payload ++ rest := by
  obtain ⟨hbytes, hcount⟩ := payloadBytes_groups n (s.take (4 * n)) (by rw [List.length_take]; omega)
  exact ⟨_, s.drop (4 * n), hcount, by rw [hbytes, List.take_append_drop]⟩

/-- What `FrameLen` finds whole begins with the bytes of a well-formed frame (30_encoding.md R72, R73). -/
theorem exists_encode_of_frameLen {s : List Byte} {n : Nat} (h : frameLen magic s = .len n) (hn : n ≤ s.length) :
    ∃ i f rest, i.wellFormed = true ∧ encode magic i = some f ∧ s = f ++ rest := by
  rcases frameLen_len_cases h with ⟨s', rfl, rfl⟩ | ⟨c, o, n0, n1, s', hc, rfl, rfl⟩
  · simp only [List.length_append, List.length_cons, Quad.bytes_length] at hn
    obtain ⟨w, rest, rfl⟩ := exists_le32_append (s := s') (by omega)
    exact ⟨.latch w, _, rest, rfl, rfl, by rw [List.append_assoc, latchBody_append]⟩
  · simp only [List.length_append, List.length_cons, Quad.bytes_length] at hn
    obtain ⟨payload, s'', hcount, rfl⟩ := exists_payloadBytes_append (s := s') (n := un16 n0 n1) (by omega)
    rw [List.length_append, payloadBytes_length] at hn
    obtain ⟨w, rest, rfl⟩ := exists_le32_append (s := s'') (by omega)
    have hfields := le16_un16 n0 n1
    rw [le16, ← hcount, List.cons.injEq, List.cons.injEq] at hfields
    obtain ⟨h0, h1, -⟩ := hfields
    have hmax := un16_lt n0 n1
    exact ⟨.pixel c o payload w, _, rest, (wellFormed_pixel ..).2 ⟨hc, by omega⟩, rfl,
      by rw [List.append_assoc, pixelBody_append, h0, h1]⟩

theorem frameLen_of_decode_frame {s rest : List Byte} {i : Instr} (h : decode magic s = .frame i rest) :
    ∃ n, frameLen magic s = .len n ∧ n ≤ s.length := by
  unfold decode at h
  split at h
  · cases h
  · cases h
  · next n hn =>
    split at h
    · cases h
    · exact ⟨n, hn, by omega⟩

/-- Nothing but the bytes of a well-formed frame decodes: they begin with some frame, and that is the one decoded. -/
theorem encode_of_decode {s rest : List Byte} {i : Instr} (h : decode magic s = .frame i rest) :
    i.wellFormed = true ∧ ∃ f, encode magic i = some f ∧ f ++ rest = s := by
  obtain ⟨n, hlen, hn⟩ := frameLen_of_decode_frame h
  obtain ⟨j, f, rest', hj, hf, rfl⟩ := exists_encode_of_frameLen hlen hn
  cases (decode_encode hj hf rest').symm.trans h
  exact ⟨hj, f, hf, rfl⟩

end Frames

end Sys2Proof

namespace Sys2Proof.Machine

/-- Settles O8: `FrameLen` finds the end of the encoded frame, and the header parse its fields. -/
theorem decodeOfEncodeIsTheFrame : Obligations.DecodeOfEncodeIsTheFrame :=
  fun _ i => ⟨encode_isSome i, fun _ rest hi hf => decode_encode hi hf rest⟩

/-- Settles O9, from the frame the bytes begin with. -/
theorem encodeOfDecodeIsTheBytes : Obligations.EncodeOfDecodeIsTheBytes := by
  intro magic s i rest h
  obtain ⟨hi, f, hf, hs⟩ := encode_of_decode h
  exact ⟨hi, by rw [← encode_isSome (magic := magic), hf]; rfl, f, hf, hs⟩

/-- Settles O7: the clauses of the table by the header's bytes, and a frame's own header. -/
theorem frameLenFollowsItsTable : Obligations.FrameLenFollowsItsTable := by
  intro magic s
  refine ⟨frameLen_of_length_lt, frameLen_of_wrong_magic, fun h hm ht hc => ?_, fun h hm ht hc => ?_,
    fun h hm hlatch hpixel => ?_, fun i f hi hf => frameLen_encode hi hf s⟩
  · rw [eq_magic_append h hm, ht, hc]
    exact frameLen_latch _
  · have hs := eq_magic_append h hm
    rw [ht] at hs
    refine ⟨fun hshort => ?_, fun hlong he => ?_, fun hlong he => ?_⟩
    · rw [hs]
      exact frameLen_pixel_short hc (by rw [List.length_drop]; omega)
    · exact (frameLen_of_pixel_header hlong hs hc).trans (if_pos he)
    · exact (frameLen_of_pixel_header hlong hs hc).trans (if_neg (not_not.2 he))
  · rw [eq_magic_append h hm]
    exact frameLen_of_other_type hlatch hpixel _

/-- Settles O6: the written-out bytes are those of the three frames. -/
theorem writtenOutFramesDecode : Obligations.WrittenOutFramesDecode :=
  ⟨decode_encode (i := .latch 0xDF81389B#32) rfl rfl [],
    decode_encode (i := .pixel 0#8 0xC9#8 [⟨3#8, 1#8, 2#8, 4#8⟩] 0xBA783C9A#32) rfl rfl [],
    decode_encode (i := .pixel 7#8 0xE1#8 [⟨0x22#8, 0x11#8, 0x33#8, 0x44#8⟩, ⟨0xBB#8, 0xAA#8, 0xCC#8, 0xDD#8⟩]
      0xE4594154#32) rfl rfl []⟩

end Sys2Proof.Machine
end

/-!
SCOPE. The frame reader of 30_encoding.md R78 and R79 in the machine, and the order in which TICK and SHUTDOWN send
their buffers (R84).
-/

section

namespace Sys2Proof.Machine

section Reader

variable {s : State}

/-- With no operation waiting the presented frame is fetched (30_encoding.md R78). -/
theorem fetch_of_rx {i : Instr} {rest : List Byte} (hops : s.ops = [])
    (hrx : decode s.cfg.magic s.rx = .frame i rest) : fetch s = .instr i (s.setRx rest) := by
  rw [fetch, hops]
  simp only [hrx]

/-- A report changes neither unit and nothing that waits. -/
theorem State.report_keeps_block (s : State) (o : OpOutcome) :
    sameUnitE s (s.report o) ∧ sameUnitM s (s.report o) ∧ sameInput s (s.report o) :=
  ⟨⟨rfl, rfl, rfl, rfl⟩, ⟨rfl, rfl, fun _ => rfl, fun _ => rfl⟩, rfl, rfl, rfl⟩

theorem crcOk_iff (p : CrcParams) (body : List Byte) (trailer : Word) :
    crcOk p body trailer = true ↔ trailer = crc32 p body :=
  decide_eq_true_iff

theorem readPixels_of_legal {order : Byte} (h : orderLegal order = true) (payload : List Quad) :
    readPixels order payload = payload.map (unpermute order) :=
  if_pos h

end Reader

/-- Settles O54: a step executes what it fetches. -/
theorem stepRunsTheDecodedFrame : Obligations.StepRunsTheDecodedFrame := by
  intro s i rest hops hrx
  rw [step, fetch_of_rx hops hrx]

/-- Settles O24: a well-formed PIXEL term reports its reading and changes nothing else. -/
theorem pixelFrameIsRead : Obligations.PixelFrameIsRead := by
  intro s channel order payload trailer
  rcases exec_pixel_cases channel order payload trailer s with ⟨hwf, e⟩ | ⟨hwf, e⟩
  · rw [if_pos ((wellFormed_pixel ..).1 hwf)]
    exact ⟨_, _, e, rfl, rfl, rfl, rfl, rfl, rfl, rfl, fun h => readPixels_of_legal h payload, rfl, crcOk_iff ..,
      s.report_keeps_block _⟩
  · rw [if_neg ((wellFormed_pixel ..).not.1 (Bool.eq_false_iff.1 hwf))]
    exact e

/-- Settles O25: a LATCH frame reports its reading and changes nothing else. -/
theorem latchFrameIsRead : Obligations.LatchFrameIsRead := fun s trailer =>
  ⟨_, _, exec_latch trailer s, rfl, rfl, rfl, rfl, crcOk_iff .., s.report_keeps_block _⟩

section Macros

variable {α : Type} {buffers : List (Byte × α)}

theorem byChannel_ascending (buffers : List (Byte × α)) :
    (byChannel buffers).Pairwise fun a b => a.1.toNat ≤ b.1.toNat := by
  have : Std.Total fun a b : Byte × α => a.1.toNat ≤ b.1.toNat := ⟨fun _ _ => Nat.le_total ..⟩
  have : IsTrans (Byte × α) fun a b => a.1.toNat ≤ b.1.toNat := ⟨fun _ _ _ => Nat.le_trans⟩
  exact List.pairwise_insertionSort _ _

theorem byChannel_strictly_ascending (h : (buffers.map Prod.fst).Nodup) :
    (byChannel buffers).Pairwise fun a b => a.1.toNat < b.1.toNat := by
  have hne : (byChannel buffers).Pairwise fun a b => a.1 ≠ b.1 :=
    List.pairwise_map.1 (((byChannel_perm buffers).map Prod.fst).nodup_iff.2 h)
  exact (byChannel_ascending buffers).imp₂
    (fun _ _ hle hne => Nat.lt_of_le_of_ne hle (hne ∘ BitVec.eq_of_toNat_eq)) hne

/-- Without two buffers on one channel there is one ascending order. -/
theorem byChannel_eq_of_perm {other : List (Byte × α)} (h : (buffers.map Prod.fst).Nodup)
    (hperm : other.Perm buffers) : byChannel other = byChannel buffers := by
  have hother : (other.map Prod.fst).Nodup := (hperm.map Prod.fst).nodup_iff.2 h
  exact List.Perm.eq_of_pairwise (fun a b _ _ hab hba => absurd hab (Nat.lt_asymm hba))
    (byChannel_strictly_ascending hother) (byChannel_strictly_ascending h)
    ((byChannel_perm other).trans (hperm.trans (byChannel_perm buffers).symm))

/-- The buffers of a tick as they are sent: the same ones, ascending, strictly where no two share a channel. -/
theorem byChannel_order (buffers : List (Byte × α)) :
    (byChannel buffers).Perm buffers ∧ ((byChannel buffers).map fun b => b.1.toNat).Pairwise (· ≤ ·) ∧
    ((buffers.map Prod.fst).Nodup → ((byChannel buffers).map fun b => b.1.toNat).Pairwise (· < ·)) :=
  ⟨byChannel_perm buffers, List.pairwise_map.2 (byChannel_ascending buffers),
    fun h => List.pairwise_map.2 (byChannel_strictly_ascending h)⟩

theorem mem_clearRing {s : State} {r : Nat} {i : Instr} :
    i ∈ clearRing s r ↔ ∃ k d, s.ringAt r = some d ∧ k < d.count ∧ i = .rset r k black := by
  unfold clearRing
  split
  · next d hd => simp [hd, eq_comm]
  · next hnone => simp [hnone]

end Macros

/-- Settles O58: TICK and SHUTDOWN send what `byChannel` gives, and SHUTDOWN's stores are those of its rings. -/
theorem macrosSendAscendingChannels : Obligations.MacrosSendAscendingChannels := by
  refine ⟨fun buffers => ?_, fun s buffers => ?_⟩
  · obtain ⟨hperm, hle, hlt⟩ := byChannel_order buffers
    exact ⟨_, rfl, hperm, hle, fun h => ⟨hlt h, fun other hother =>
      congrArg framesThenLatch (byChannel_eq_of_perm h hother)⟩⟩
  · obtain ⟨hperm, hle, hlt⟩ := byChannel_order (buffers.map fun b => (b.1, List.replicate b.2 black))
    refine ⟨_, _, rfl, hperm, hle, fun h => hlt (by rw [List.map_map]; exact h), fun i => ?_⟩
    simp only [List.mem_flatMap, List.mem_range, mem_clearRing]
    constructor
    · rintro ⟨r, hr, k, d, hd, hk, rfl⟩
      exact ⟨r, k, d, hr, hd, hk, rfl⟩
    · rintro ⟨r, k, d, hr, hd, hk, rfl⟩
      exact ⟨r, hr, k, d, hd, hk, rfl⟩

end Sys2Proof.Machine
end

/-!
SCOPE. Unit E of 40_encoder.md: the channel order, the frame an encode operation ends with, and what a reader makes of
that frame and of the output log.
-/

section

namespace Sys2Proof

section Streams

variable {magic : Quad}

theorem encode_length_pos {i : Instr} {f : List Byte} (hf : encode magic i = some f) : 0 < f.length := by
  rw [encode_length hf]
  cases i with
  | pixel => exact Nat.add_pos_left (by decide) _
  | latch => exact Nat.succ_pos _
  | _ => cases hf

theorem parseUpTo_nil (k : Nat) : parseUpTo magic k [] = some [] := by
  cases k <;> rfl

theorem parseUpTo_zero_eq_some {s : List Byte} {frames : List Instr} (h : parseUpTo magic 0 s = some frames) :
    s = [] ∧ frames = [] := by
  cases s with
  | nil => cases h; exact ⟨rfl, rfl⟩
  | cons => cases h

theorem parseUpTo_succ_of_decode {s rest : List Byte} {i : Instr} (h : decode magic s = .frame i rest) (k : Nat) :
    parseUpTo magic (k + 1) s = (parseUpTo magic k rest).map (i :: ·) := by
  have hs : s.isEmpty = false := by
    cases s with
    | nil => cases h
    | cons => rfl
  simp [parseUpTo, hs, h]

/-- A reading either is at its end or begins with a frame. -/
theorem parseUpTo_succ_cases {k : Nat} {s : List Byte} {frames : List Instr}
    (h : parseUpTo magic (k + 1) s = some frames) :
    (s = [] ∧ frames = []) ∨
    (∃ i rest more, decode magic s = .frame i rest ∧ parseUpTo magic k rest = some more ∧ frames = i :: more) := by
  cases s with
  | nil => cases h; exact .inl ⟨rfl, rfl⟩
  | cons b s =>
    cases hd : decode magic (b :: s) with
    | needMore => simp [parseUpTo, hd] at h
    | rejected why => simp [parseUpTo, hd] at h
    | frame i rest =>
      rw [parseUpTo_succ_of_decode hd, Option.map_eq_some_iff] at h
      obtain ⟨more, hmore, rfl⟩ := h
      exact .inr ⟨i, rest, more, rfl, hmore, rfl⟩

theorem parseUpTo_mono {k n : Nat} {s : List Byte} {frames : List Instr} (hkn : k ≤ n)
    (h : parseUpTo magic k s = some frames) : parseUpTo magic n s = some frames := by
  induction k generalizing n s frames with
  | zero =>
    obtain ⟨rfl, rfl⟩ := parseUpTo_zero_eq_some h
    exact parseUpTo_nil n
  | succ k ih =>
    obtain ⟨n, rfl⟩ := Nat.exists_eq_add_of_le' (Nat.le_trans (Nat.le_add_left 1 k) hkn)
    rcases parseUpTo_succ_cases h with ⟨rfl, rfl⟩ | ⟨i, rest, more, hd, hmore, rfl⟩
    · exact parseUpTo_nil _
    · rw [parseUpTo_succ_of_decode hd, ih (Nat.le_of_succ_le_succ hkn) hmore]
      rfl

/-- What follows a frame does not change how it decodes (30_encoding.md R78). -/
theorem decode_append {s rest : List Byte} {i : Instr} (h : decode magic s = .frame i rest) (tail : List Byte) :
    decode magic (s ++ tail) = .frame i (rest ++ tail) := by
  obtain ⟨hi, f, hf, rfl⟩ := encode_of_decode h
  rw [List.append_assoc, decode_encode hi hf]

theorem parseUpTo_append {k m : Nat} {s tail : List Byte} {frames more : List Instr}
    (hs : parseUpTo magic k s = some frames) (htail : parseUpTo magic m tail = some more) :
    parseUpTo magic (k + m) (s ++ tail) = some (frames ++ more) := by
  induction k generalizing s frames with
  | zero =>
    obtain ⟨rfl, rfl⟩ := parseUpTo_zero_eq_some hs
    exact parseUpTo_mono (Nat.le_add_left ..) htail
  | succ k ih =>
    rcases parseUpTo_succ_cases hs with ⟨rfl, rfl⟩ | ⟨i, rest, frames, hd, hrest, rfl⟩
    · exact parseUpTo_mono (Nat.le_add_left ..) htail
    · rw [Nat.succ_add, parseUpTo_succ_of_decode (decode_append hd tail), ih hrest]
      rfl

/-- Two readable sequences read one after the other (40_encoder.md R112). -/
theorem parseStream_append {s tail : List Byte} {frames more : List Instr}
    (hs : parseStream magic s = some frames) (htail : parseStream magic tail = some more) :
    parseStream magic (s ++ tail) = some (frames ++ more) := by
  rw [parseStream, List.length_append]
  exact parseUpTo_append hs htail

theorem parseStream_encode {i : Instr} {f : List Byte} (hi : i.wellFormed = true) (hf : encode magic i = some f) :
    parseStream magic f = some [i] := by
  have hd : decode magic f = .frame i [] := by simpa using decode_encode hi hf []
  obtain ⟨k, hk⟩ := Nat.exists_eq_succ_of_ne_zero (encode_length_pos hf).ne'
  rw [parseStream, hk, parseUpTo_succ_of_decode hd, parseUpTo_nil]
  rfl

/-- A frame after a readable sequence is read last (40_encoder.md R112). -/
theorem parseStream_append_encode {s f : List Byte} {frames : List Instr} {i : Instr}
    (hs : parseStream magic s = some frames) (hi : i.wellFormed = true) (hf : encode magic i = some f) :
    parseStream magic (s ++ f) = some (frames ++ [i]) :=
  parseStream_append hs (parseStream_encode hi hf)

/-- A frame's bytes determine it. -/
theorem encode_inj {i j : Instr} {f : List Byte} (hi : i.wellFormed = true) (hj : j.wellFormed = true)
    (hfi : encode magic i = some f) (hfj : encode magic j = some f) : i = j := by
  cases (decode_encode hi hfi []).symm.trans (decode_encode hj hfj [])
  rfl

end Streams

theorem Pixel.ext_channel {p q : Pixel} (h : ∀ k < 4, p.channel k = q.channel k) : p = q := by
  cases p
  cases q
  rw [Pixel.mk.injEq]
  exact ⟨h 0 (by decide), h 1 (by decide), h 2 (by decide), h 3 (by decide)⟩

theorem Quad.ext_at {p q : Quad} (h : ∀ j < 4, p.at j = q.at j) : p = q := by
  cases p
  cases q
  rw [Quad.mk.injEq]
  exact ⟨h 0 (by decide), h 1 (by decide), h 2 (by decide), h 3 (by decide)⟩

theorem Config.ne_chLatch_iff {c : Byte} : c ≠ Config.chLatch ↔ c.toNat ≤ 254 := by
  rw [Config.chLatch, ← BitVec.toNat_ne_iff_ne, show (255#8).toNat = 255 from rfl]
  have := c.isLt
  omega

end Sys2Proof

namespace Sys2Proof.Machine

section ChannelOrder

variable {order : Byte}

theorem orderInv_orderPos (h : orderLegal order = true) {k : Nat} (hk : k < 4) :
    orderInv order (orderPos order k) = k := by
  have hne := (orderLegal_iff order).1 h
  unfold orderInv
  match k, hk with
  | 0, _ => simp
  | 1, _ => simp [hne 0 1]
  | 2, _ => simp [hne 0 2, hne 1 2]
  | 3, _ => simp [hne 0 3, hne 1 3, hne 2 3]

/-- Four different positions below 4 are all of them. -/
theorem exists_orderPos_eq (h : orderLegal order = true) {j : Nat} (hj : j < 4) :
    ∃ k < 4, orderPos order k = j := by
  have hmaps : Set.MapsTo (orderPos order) (Finset.range 4) (Finset.range 4) :=
    fun k _ => Finset.mem_coe.2 (Finset.mem_range.2 (orderPos_lt order k))
  have hinj : Set.InjOn (orderPos order) (Finset.range 4) := by
    intro j hj k hk
    exact not_imp_not.1 ((orderLegal_iff order).1 h j k (Finset.mem_range.1 hj) (Finset.mem_range.1 hk))
  simpa using Finset.surjOn_of_injOn_of_card_le _ hmaps hinj le_rfl (Finset.mem_coe.2 (Finset.mem_range.2 hj))

theorem orderPos_orderInv (h : orderLegal order = true) {j : Nat} (hj : j < 4) :
    orderPos order (orderInv order j) = j := by
  obtain ⟨k, hk, rfl⟩ := exists_orderPos_eq h hj
  rw [orderInv_orderPos h hk]

theorem orderInv_lt (order : Byte) (j : Nat) : orderInv order j < 4 := by
  unfold orderInv
  split_ifs <;> decide

theorem permute_at (order : Byte) (p : Pixel) {j : Nat} (hj : j < 4) :
    (permute order p).at j = p.channel (orderInv order j) := by
  match j, hj with
  | 0, _ | 1, _ | 2, _ | 3, _ => rfl

theorem unpermute_channel (order : Byte) (q : Quad) {k : Nat} (hk : k < 4) :
    (unpermute order q).channel k = q.at (orderPos order k) := by
  match k, hk with
  | 0, _ | 1, _ | 2, _ | 3, _ => rfl

/-- Colour channel `k` is sent at position `pos(k)` (40_encoder.md R103). -/
theorem permute_at_orderPos (h : orderLegal order = true) (p : Pixel) {k : Nat} (hk : k < 4) :
    (permute order p).at (orderPos order k) = p.channel k := by
  rw [permute_at order p (orderPos_lt order k), orderInv_orderPos h hk]

theorem unpermute_permute (h : orderLegal order = true) (p : Pixel) : unpermute order (permute order p) = p :=
  Pixel.ext_channel fun _ hk => (unpermute_channel order _ hk).trans (permute_at_orderPos h p hk)

theorem permute_unpermute (h : orderLegal order = true) (q : Quad) : permute order (unpermute order q) = q :=
  Quad.ext_at fun j hj => by
    rw [permute_at order _ hj, unpermute_channel order q (orderInv_lt order j), orderPos_orderInv h hj]

theorem map_unpermute_permute (h : orderLegal order = true) (pixels : List Pixel) :
    (pixels.map (permute order)).map (unpermute order) = pixels := by
  rw [List.map_map, show unpermute order ∘ permute order = id from funext (unpermute_permute h), List.map_id]

/-- Settles O3: under a legal order `orderInv` and `orderPos` invert each other. -/
theorem permutePlacesEveryColourChannel : Obligations.PermutePlacesEveryColourChannel :=
  ⟨fun _ h => ⟨fun p _ hk => permute_at_orderPos h p hk, unpermute_permute h, permute_unpermute h⟩, by decide⟩

end ChannelOrder

section Encode

variable {s : State} {c : Byte} {pixels : List Pixel}

/-- The body of the frame ENCPIX makes (40_encoder.md R104). -/
def encpixBody (cfg : Config) (c : Byte) (pixels : List Pixel) : List Byte :=
  pixelBody cfg.magic c cfg.order (pixels.map (permute cfg.order))

theorem encpixBody_length (cfg : Config) (c : Byte) (pixels : List Pixel) :
    (encpixBody cfg c pixels).length = 10 + 4 * pixels.length := by
  rw [encpixBody, pixelBody_length, List.length_map]

/-- A body with its checksum, as the encoder appends it (30_encoding.md R77). -/
def withTrailer (p : CrcParams) (body : List Byte) : List Byte := body ++ le32 (crc32 p body)

theorem withTrailer_length (p : CrcParams) (body : List Byte) : (withTrailer p body).length = body.length + 4 := by
  rw [withTrailer, List.length_append, le32_length]

theorem withTrailer_take (p : CrcParams) (body : List Byte) :
    (withTrailer p body).take ((withTrailer p body).length - 4) = body := by
  rw [withTrailer_length, Nat.add_sub_cancel, withTrailer, List.take_left' rfl]

theorem trailerOf_withTrailer (p : CrcParams) (body : List Byte) :
    trailerOf (withTrailer p body) (withTrailer p body).length = crc32 p body := by
  rw [withTrailer_length, withTrailer]
  exact (List.append_nil (le32 _) ▸ trailerOf_append body [] _)

theorem exec_encpix_of_illegal (h : orderLegal s.cfg.order = false) :
    exec (.encpix c pixels) s = .refused .orderNotPermutation := by
  rw [exec, execEncpix, if_pos h]

theorem exec_encpix_of_chLatch (h : orderLegal s.cfg.order = true) (hc : c = Config.chLatch) :
    exec (.encpix c pixels) s = .next (s.report (.fault (.invalidChannelError c))) := by
  rw [exec, execEncpix, if_neg (by simp [h]), if_pos hc]
  rfl

theorem exec_encpix_of_overlong (h : orderLegal s.cfg.order = true) (hc : c ≠ Config.chLatch)
    (hlen : Config.maxCount < pixels.length) :
    exec (.encpix c pixels) s = .next (s.report (.fault (.encodingError pixels.length))) := by
  rw [exec, execEncpix, if_neg (by simp [h]), if_neg hc, if_pos hlen]
  rfl

theorem exec_encpix_eq (h : orderLegal s.cfg.order = true) (hc : c ≠ Config.chLatch)
    (hlen : pixels.length ≤ Config.maxCount) :
    exec (.encpix c pixels) s = .next (s.afterEncode (encpixBody s.cfg c pixels)) := by
  rw [exec, execEncpix, if_neg (by simp [h]), if_neg hc, if_neg (Nat.not_lt.2 hlen), emitBody_eq]
  rfl

/-- An encode operation changes unit E and the outcome only. -/
theorem State.afterEncode_keeps (s : State) (body : List Byte) :
    sameUnitM s (s.afterEncode body) ∧ sameInput s (s.afterEncode body) :=
  ⟨⟨rfl, rfl, fun _ => rfl, fun _ => rfl⟩, rfl, rfl, rfl⟩

theorem State.afterEncode_crc (s : State) (body : List Byte) :
    (s.afterEncode body).crc = crcRegister s.cfg.crc body := rfl

theorem State.afterEncode_pos (s : State) (body : List Byte) : (s.afterEncode body).pos = body.length + 4 := rfl

theorem ofNat_mod_byte (n : Nat) : BitVec.ofNat 8 (n % 256) = BitVec.ofNat 8 n := by
  apply BitVec.eq_of_toNat_eq
  simp only [BitVec.toNat_ofNat]
  omega

/-- The body of a PIXEL frame field by field (40_encoder.md R104). -/
theorem encpixBody_eq (cfg : Config) (c : Byte) (pixels : List Pixel) :
    encpixBody cfg c pixels = cfg.magic.bytes ++ [c, 1#8, 4#8, cfg.order] ++
      [BitVec.ofNat 8 (pixels.length % 256), BitVec.ofNat 8 (pixels.length / 256)] ++
      pixels.flatMap (fun p => (permute cfg.order p).bytes) := by
  rw [ofNat_mod_byte, encpixBody, pixelBody, le16, List.length_map, payloadBytes, List.flatMap_map]
  rfl

/-- Settles O10: the four ways ENCPIX can end, in the order of its checks. -/
theorem encpixFollowsItsRule : Obligations.EncpixFollowsItsRule := by
  intro s c pixels
  refine ⟨fun h => ?_, fun h _ _ => exec_encpix_of_illegal h⟩
  split_ifs with hc hlen
  · exact exec_encpix_of_chLatch h hc
  · exact exec_encpix_of_overlong h hc hlen
  · exact ⟨_, _, _, exec_encpix_eq h hc (Nat.not_lt.1 hlen), encpixBody_eq .., rfl, rfl, rfl,
      s.afterEncode_keeps _⟩

/-- Settles O12: ENCLATCH has no check. -/
theorem enclatchFollowsItsRule : Obligations.EnclatchFollowsItsRule := fun s =>
  ⟨_, _, _, exec_enclatch s, rfl, rfl, rfl, rfl, rfl, s.afterEncode_keeps _⟩

/-- Settles O14: the body's length and the four bytes of the trailer. -/
theorem frameLengthLaw : Obligations.FrameLengthLaw := by
  refine ⟨fun s c pixels h hc hlen => ?_, fun s => ⟨_, _, exec_enclatch s, rfl, rfl⟩⟩
  refine ⟨_, _, exec_encpix_eq h (Config.ne_chLatch_iff.2 hc) hlen, rfl, ?_⟩
  rw [List.length_append, encpixBody_length, le32_length]
  omega

/-- Settles O18: which way an encode operation ends, and the frame, are read from the configuration. -/
theorem encodeOperationsArePure : Obligations.EncodeOperationsArePure := by
  rintro s s' i hcfg (rfl | ⟨c, p, rfl⟩)
  · have h' := exec_enclatch s'
    rw [State.afterEncode, ← hcfg] at h'
    exact .inl ⟨_, _, _, exec_enclatch s, h', rfl, rfl, rfl, .inl rfl⟩
  · rcases exec_encpix_cases c p s with ⟨h, e⟩ | ⟨h, hc, e⟩ | ⟨h, hc, hlen, e⟩ | ⟨h, hc, hlen, e⟩ <;> rw [hcfg] at h
    · exact .inr ⟨e, exec_encpix_of_illegal h⟩
    · exact .inl ⟨_, _, [], e, exec_encpix_of_chLatch h hc, rfl, by simp, by simp, .inr rfl⟩
    · exact .inl ⟨_, _, [], e, exec_encpix_of_overlong h hc hlen, rfl, by simp, by simp, .inr rfl⟩
    · have h' := exec_encpix_eq h hc hlen
      rw [State.afterEncode, ← hcfg] at h'
      exact .inl ⟨_, _, _, e, h', rfl, rfl, rfl, .inl rfl⟩

/-- An ENCPIX that ends with a frame passed its checks. -/
theorem exec_encpix_frame {t : State} {f : List Byte} (h : exec (.encpix c pixels) s = .next t)
    (ho : t.outcome = .ok (.frame f)) :
    orderLegal s.cfg.order = true ∧ c.toNat ≤ 254 ∧ pixels.length ≤ 65535 ∧
      f = withTrailer s.cfg.crc (encpixBody s.cfg c pixels) ∧ t = s.afterEncode (encpixBody s.cfg c pixels) := by
  rcases exec_encpix_cases c pixels s with ⟨_, e⟩ | ⟨_, _, e⟩ | ⟨_, _, _, e⟩ | ⟨horder, hc, hlen, e⟩ <;>
    cases e.symm.trans h <;> cases ho
  exact ⟨horder, Config.ne_chLatch_iff.1 hc, hlen, rfl, rfl⟩

theorem exec_enclatch_frame {t : State} {f : List Byte} (h : exec .enclatch s = .next t)
    (ho : t.outcome = .ok (.frame f)) :
    f = withTrailer s.cfg.crc (latchBody s.cfg.magic) ∧ t = s.afterEncode (latchBody s.cfg.magic) := by
  cases (exec_enclatch s).symm.trans h
  cases ho
  exact ⟨rfl, rfl⟩

/-- Only the encode operations end with a frame. -/
theorem exec_frame {i : Instr} {t : State} {f : List Byte} (h : exec i s = .next t)
    (ho : t.outcome = .ok (.frame f)) :
    ∃ body, f = withTrailer s.cfg.crc body ∧ t = s.afterEncode body := by
  cases i with
  | pixel channel order payload trailer =>
    rcases exec_pixel_cases channel order payload trailer s with ⟨_, e⟩ | ⟨_, e⟩ <;> cases e.symm.trans h
    cases ho
  | latch trailer => cases h; cases ho
  | encpix c pixels =>
    obtain ⟨-, -, -, hf, ht⟩ := exec_encpix_frame h ho
    exact ⟨_, hf, ht⟩
  | enclatch => exact ⟨_, exec_enclatch_frame h ho⟩
  | ralloc n rev =>
    rcases exec_ralloc_cases n rev s with ⟨_, e⟩ | ⟨_, _, e⟩ | ⟨_, _, e⟩ <;> cases e.symm.trans h <;> cases ho
  | rmap r k =>
    rcases exec_rmap_cases r k s with ⟨_, e⟩ | ⟨_, _, e⟩ | ⟨_, _, _, _, e⟩ | ⟨_, _, _, _, e⟩ <;>
      cases e.symm.trans h <;> cases ho
  | rset r k color =>
    rcases exec_rset_cases r k color s with ⟨_, e⟩ | ⟨_, _, e⟩ | ⟨_, _, _, _, e⟩ | ⟨_, _, _, _, _, e⟩ |
      ⟨_, _, _, _, _, e⟩ <;> cases e.symm.trans h <;> cases ho
  | rnum r =>
    rcases exec_rnum_cases r s with ⟨_, e⟩ | ⟨_, _, e⟩ | ⟨_, _, _, e⟩ <;> cases e.symm.trans h
    cases ho

/-- Settles O15: such a frame is a body with its checksum. -/
theorem frameChecksumLaw : Obligations.FrameChecksumLaw := by
  intro s t i f h ho
  obtain ⟨body, rfl, -⟩ := exec_frame h ho
  rw [withTrailer_take, trailerOf_withTrailer]

/-- Settles O13: the registers are written from the frame's body. -/
theorem encodeLeavesTheWorkingRegisters : Obligations.EncodeLeavesTheWorkingRegisters := by
  intro s t i f h ho
  obtain ⟨body, rfl, rfl⟩ := exec_frame h ho
  exact ⟨(withTrailer_length ..).symm, rfl, by rw [withTrailer_take]; rfl, trailerOf_withTrailer ..⟩

end Encode

section Frames

variable {s : State} {c : Byte} {pixels : List Pixel}

/-- The wire frame an ENCPIX makes (40_encoder.md R104). -/
def encpixFrame (cfg : Config) (c : Byte) (pixels : List Pixel) : Instr :=
  .pixel c cfg.order (pixels.map (permute cfg.order)) (crc32 cfg.crc (encpixBody cfg c pixels))

/-- The wire frame an ENCLATCH makes (40_encoder.md R105). -/
def enclatchFrame (cfg : Config) : Instr := .latch (crc32 cfg.crc (latchBody cfg.magic))

theorem encode_encpixFrame (cfg : Config) (c : Byte) (pixels : List Pixel) :
    encode cfg.magic (encpixFrame cfg c pixels) = some (withTrailer cfg.crc (encpixBody cfg c pixels)) := rfl

theorem encode_enclatchFrame (cfg : Config) :
    encode cfg.magic (enclatchFrame cfg) = some (withTrailer cfg.crc (latchBody cfg.magic)) := rfl

theorem encpixFrame_madeBy (cfg : Config) (hc : c.toNat ≤ 254) (hlen : pixels.length ≤ 65535) :
    madeBy cfg (encpixFrame cfg c pixels) :=
  ⟨hc, (List.length_map ..).trans_le hlen, rfl, rfl⟩

theorem madeBy.wellFormed {cfg : Config} {i : Instr} (h : madeBy cfg i) : i.wellFormed = true := by
  cases i with
  | pixel =>
    obtain ⟨hc, hlen, -, -⟩ := h
    exact (wellFormed_pixel ..).2 ⟨hc, hlen⟩
  | latch => rfl
  | _ => cases h

theorem encpixFrame_wellFormed (cfg : Config) (hc : c.toNat ≤ 254) (hlen : pixels.length ≤ 65535) :
    (encpixFrame cfg c pixels).wellFormed = true :=
  (encpixFrame_madeBy cfg hc hlen).wellFormed

/-- An instruction leaves the log or adds one frame of this encoder to it. -/
theorem exec_out_cases {i : Instr} {t : State} (h : exec i s = .next t) :
    t.out = s.out ∨ ∃ j f, madeBy s.cfg j ∧ encode s.cfg.magic j = some f ∧ t.out = s.out ++ f := by
  obtain ⟨-, -, -, -, -, hother⟩ := eachStateHasItsWriter i s t h
  cases i with
  | encpix c pixels =>
    rcases exec_encpix_cases c pixels s with ⟨_, e⟩ | ⟨_, _, e⟩ | ⟨_, _, _, e⟩ | ⟨_, hc, hlen, e⟩ <;>
      cases e.symm.trans h
    · exact .inl rfl
    · exact .inl rfl
    · exact .inr ⟨_, _, encpixFrame_madeBy s.cfg (Config.ne_chLatch_iff.1 hc) hlen, encode_encpixFrame .., rfl⟩
  | enclatch =>
    cases (exec_enclatch s).symm.trans h
    exact .inr ⟨enclatchFrame s.cfg, _, rfl, encode_enclatchFrame _, rfl⟩
  | _ => exact .inl (hother (by simp) (by simp)).1

theorem State.OutReads.append {s t : State} (hs : s.OutReads) (hcfg : t.cfg = s.cfg) {j : Instr} {f : List Byte}
    (hj : madeBy s.cfg j) (hf : encode s.cfg.magic j = some f) (hout : t.out = s.out ++ f) : t.OutReads := by
  obtain ⟨frames, hparse, hmade⟩ := hs
  rw [State.OutReads, hcfg, hout]
  refine ⟨frames ++ [j], parseStream_append_encode hparse hj.wellFormed hf, fun i hi => ?_⟩
  rcases List.mem_append.1 hi with hi | hi
  · exact hmade i hi
  · rw [List.mem_singleton.1 hi]
    exact hj

theorem exec_keeps_outReads {i : Instr} {t : State} (hs : s.OutReads) (h : exec i s = .next t) : t.OutReads := by
  have hcfg := exec_cfg h
  rcases exec_out_cases h with hout | ⟨j, f, hj, hf, hout⟩
  · rw [State.OutReads, hcfg, hout]
    exact hs
  · exact hs.append hcfg hj hf hout

/-- Settles O19: taking an instruction from its queue leaves the log, and every instruction keeps it readable. -/
theorem outputLogStaysReadable : Obligations.OutputLogStaysReadable := by
  intro s t hs h
  rcases step_next_cases h with ⟨_, ops, _, h⟩ | ⟨_, rx, _, _, h⟩ | ⟨_, _, rfl⟩
  · exact exec_keeps_outReads (s := s.setOps ops) hs h
  · exact exec_keeps_outReads (s := s.setRx rx) hs h
  · exact hs

theorem State.resetWith_outReads (cfg : Config) : (State.resetWith cfg).OutReads :=
  ⟨[], parseUpTo_nil 0, by simp⟩

/-- Settles O20: the log is empty. -/
theorem outputLogReadsAtReset : Obligations.OutputLogReadsAtReset :=
  ⟨State.resetWith_outReads Config.hardware, State.resetWith_outReads⟩

/-- Settles O21: what is appended is one frame's bytes, and the pixels come back from its payload. -/
theorem encodeAddsItsFrameToTheReading : Obligations.EncodeAddsItsFrameToTheReading := by
  intro s frames hparse
  refine ⟨fun c pixels horder hc hlen => ?_, ?_⟩
  · exact ⟨_, _, _, exec_encpix_eq horder (Config.ne_chLatch_iff.2 hc) hlen,
      parseStream_append_encode hparse (encpixFrame_wellFormed s.cfg hc hlen) (encode_encpixFrame ..),
      map_unpermute_permute horder pixels, rfl⟩
  · exact ⟨_, _, exec_enclatch s, parseStream_append_encode (i := enclatchFrame s.cfg) hparse rfl
      (encode_enclatchFrame _), rfl⟩

/-- Settles O17: the frame's bytes determine the frame, and a legal order the pixels from their payload. -/
theorem encodingIsInjective : Obligations.EncodingIsInjective := by
  refine ⟨fun s s' t t' c c' p p' f hcfg h ho h' ho' => ?_, fun s s' t t' c p f f' hcfg h ho h' ho' => ?_⟩
  · obtain ⟨horder, hc, hlen, hf, -⟩ := exec_encpix_frame h ho
    obtain ⟨-, hc', hlen', hf', -⟩ := exec_encpix_frame h' ho'
    rw [← hcfg] at hf'
    have hframe : encpixFrame s.cfg c p = encpixFrame s.cfg c' p' :=
      encode_inj (encpixFrame_wellFormed _ hc hlen) (encpixFrame_wellFormed _ hc' hlen')
        (hf ▸ encode_encpixFrame ..) (hf' ▸ encode_encpixFrame ..)
    rw [encpixFrame, encpixFrame, Instr.pixel.injEq] at hframe
    obtain ⟨hcc, -, hpp, -⟩ := hframe
    exact ⟨hcc, by rw [← map_unpermute_permute horder p, hpp, map_unpermute_permute horder]⟩
  · obtain ⟨-, hc, hlen, rfl, -⟩ := exec_encpix_frame h ho
    obtain ⟨rfl, -⟩ := exec_enclatch_frame h' ho'
    rw [← hcfg]
    intro heq
    have hframe : encpixFrame s.cfg c p = enclatchFrame s.cfg :=
      encode_inj (encpixFrame_wellFormed _ hc hlen) rfl (encode_encpixFrame ..) (heq ▸ encode_enclatchFrame _)
    cases hframe

/-- Byte `j` of group `n` of a payload (30_encoding.md R76). -/
theorem byteAt_payloadBytes {payload : List Quad} {n j : Nat} {q : Quad} (hn : payload[n]? = some q) (hj : j < 4)
    (rest : List Byte) : byteAt (payloadBytes payload ++ rest) (4 * n + j) = q.at j := by
  induction payload generalizing n with
  | nil => cases hn
  | cons p payload ih =>
    cases n with
    | zero =>
      cases hn
      match j, hj with
      | 0, _ | 1, _ | 2, _ | 3, _ => rfl
    | succ n =>
      rw [show 4 * (n + 1) + j = p.bytes.length + (4 * n + j) by rw [Quad.bytes_length]; omega]
      exact (byteAt_append_add p.bytes _ _).trans (ih hn)

/-- Settles O16: the header's bytes stand in their places, and the payload's group `n` is pixel `n` permuted. -/
theorem frameReparseLaw : Obligations.FrameReparseLaw := by
  refine ⟨fun s t c pixels f h ho => ?_, fun s t f h ho => ?_⟩
  · obtain ⟨horder, -, hlen, rfl, -⟩ := exec_encpix_frame h ho
    rw [withTrailer]
    generalize le32 (crc32 s.cfg.crc (encpixBody s.cfg c pixels)) = trailer
    rw [encpixBody, pixelBody_append, List.length_map]
    refine ⟨rfl, rfl, rfl, rfl, rfl, un16_le16 (by omega), fun n k p hk hp => ?_⟩
    have hq : (pixels.map (permute s.cfg.order))[n]? = some (permute s.cfg.order p) := by
      rw [List.getElem?_map, hp]
      rfl
    rw [← permute_at_orderPos horder p hk, ← byteAt_payloadBytes hq (orderPos_lt ..) trailer, Nat.add_assoc, Nat.add_comm]
    rfl
  · obtain ⟨rfl, -⟩ := exec_enclatch_frame h ho
    exact ⟨rfl, rfl, rfl⟩

/-- Settles O26: the reader fetches the encoded frame and reports its reading, whose pixels are those sent. -/
theorem readerRecoversTheEncodersOperands : Obligations.ReaderRecoversTheEncodersOperands := by
  intro s t c pixels f rest h ho
  obtain ⟨horder, hc, hlen, rfl, ht⟩ := exec_encpix_frame h ho
  have hcfg : t.cfg = s.cfg := exec_cfg h
  have hdecode : decode t.cfg.magic (withTrailer s.cfg.crc (encpixBody s.cfg c pixels) ++ rest) =
      .frame (encpixFrame s.cfg c pixels) rest := by
    rw [hcfg]
    exact decode_encode (encpixFrame_wellFormed _ hc hlen) (encode_encpixFrame ..) rest
  have hread := pixelFrameIsRead ((t.setOps []).setRx rest) c s.cfg.order (pixels.map (permute s.cfg.order))
    (crc32 s.cfg.crc (encpixBody s.cfg c pixels))
  rw [List.length_map, if_pos ⟨hc, hlen⟩] at hread
  obtain ⟨u, reading, hu, ho, hchannel, -, -, -, hcount, -, hpixels, -, hcrc, hE, hM, -, -, hrx⟩ := hread
  refine ⟨u, reading, ?_, hrx, ho, hchannel, hcount, ?_, hcrc.2 ?_, hE, hM⟩
  · exact (stepRunsTheDecodedFrame _ _ _ rfl hdecode).trans hu
  · rw [hpixels horder, map_unpermute_permute horder]
  · rw [State.setRx_cfg, State.setOps_cfg, hcfg, encpixBody]

end Frames

end Sys2Proof.Machine
end

/-!
SCOPE. The checksum of 40_encoder.md: the standard parameters give R100's pseudocode, the values of R102, and the residue
of a message with its own checksum. Shifting is linear in the register, and four bytes enter it as one 32-bit value.
-/

section

namespace Sys2Proof.Machine

section Checksum

variable {p : CrcParams}

/-- One shift under reflected parameters (40_encoder.md R100). -/
theorem crcShift_of_refin (h : p.refin = true) (x : Word) :
    crcShift p x = if x.getLsbD 0 then (x >>> 1) ^^^ p.poly else x >>> 1 := by
  rw [crcShift, if_pos h]

theorem crcStep_of_refin (h : p.refin = true) (c : Word) (b : Byte) :
    crcStep p c b = (crcShift p)^[8] (c ^^^ b.setWidth 32) := by
  rw [crcStep, crcEnter, if_pos h]

theorem crc32_standard (s : List Byte) :
    crc32 .standard s = crcRegister .standard s ^^^ 0xFFFFFFFF#32 := rfl

/-- Settles O4: the standard parameters are reflected on both sides. -/
theorem standardChecksumIsTheReflectedOne : Obligations.StandardChecksumIsTheReflectedOne := by
  intro s
  have hshift : crcShift .standard = fun x => if x.getLsbD 0 then (x >>> 1) ^^^ 0xEDB88320#32 else x >>> 1 :=
    funext fun x => crcShift_of_refin rfl x
  have hstep : crcStep .standard = fun c b => (crcShift .standard)^[8] (c ^^^ b.setWidth 32) :=
    funext₂ fun c b => crcStep_of_refin rfl c b
  rw [crc32_standard, crcRegister, hstep, hshift]
  rfl

/-- What enters two words of an exclusive or enters neither. -/
theorem xor_eq_xor_xor_xor (a b c : Word) : a ^^^ b = (a ^^^ c) ^^^ (b ^^^ c) := by
  rw [BitVec.xor_comm b c, BitVec.xor_assoc, ← BitVec.xor_assoc c c, BitVec.xor_self, BitVec.zero_xor]

theorem crcShift_xor (h : p.refin = true) (x y : Word) : crcShift p (x ^^^ y) = crcShift p x ^^^ crcShift p y := by
  simp only [crcShift_of_refin h, BitVec.getLsbD_xor, BitVec.ushiftRight_xor_distrib]
  cases x.getLsbD 0 <;> cases y.getLsbD 0
  · rfl
  · exact BitVec.xor_assoc ..
  · show x >>> 1 ^^^ y >>> 1 ^^^ p.poly = x >>> 1 ^^^ p.poly ^^^ y >>> 1
    ac_rfl
  · exact xor_eq_xor_xor_xor ..

theorem crcShift_iterate_xor (h : p.refin = true) (n : Nat) (x y : Word) :
    (crcShift p)^[n] (x ^^^ y) = (crcShift p)^[n] x ^^^ (crcShift p)^[n] y := by
  induction n generalizing x y with
  | zero => rfl
  | succ n ih => rw [Function.iterate_succ_apply, crcShift_xor h, ih]; rfl

/-- Zero bits are shifted out with nothing xored in. -/
theorem crcShift_iterate_of_low_zero (h : p.refin = true) {n : Nat} {x : Word}
    (hx : ∀ k < n, x.getLsbD k = false) : (crcShift p)^[n] x = x >>> n := by
  induction n with
  | zero => simp
  | succ n ih =>
    rw [Function.iterate_succ_apply', ih fun k hk => hx k (Nat.lt_succ_of_lt hk), crcShift_of_refin h,
      BitVec.getLsbD_ushiftRight, Nat.add_zero, hx n (Nat.lt_succ_self n), if_neg (by decide),
      BitVec.shiftRight_add]

theorem xor_low_byte (w : Word) {k : Nat} (hk : k < 8) :
    (w ^^^ (w.setWidth 8).setWidth 32).getLsbD k = false := by
  simp [hk, show k < 32 by omega]

theorem xor_low_byte_shiftRight (w : Word) : (w ^^^ (w.setWidth 8).setWidth 32) >>> 8 = w >>> 8 := by
  ext k hk
  simp

/-- Eight shifts of a register with a 32-bit value in it take the value's low byte in, as `Step` does. -/
theorem crcShift_iterate_xor_word (h : p.refin = true) (c w : Word) :
    (crcShift p)^[8] (c ^^^ w) = crcStep p c (w.setWidth 8) ^^^ w >>> 8 := by
  have hw : c ^^^ w = (c ^^^ (w.setWidth 8).setWidth 32) ^^^ (w ^^^ (w.setWidth 8).setWidth 32) :=
    xor_eq_xor_xor_xor ..
  rw [hw, crcShift_iterate_xor h, ← crcStep_of_refin h,
    crcShift_iterate_of_low_zero h fun _ hk => xor_low_byte w hk, xor_low_byte_shiftRight]

theorem ofNat_bits_eq (w : Word) (lo : Nat) : BitVec.ofNat 8 (bits w.toNat (lo + 7) lo) = (w >>> lo).setWidth 8 := by
  apply BitVec.eq_of_toNat_eq
  rw [ofNat_bits_toNat, bits, BitVec.toNat_setWidth, BitVec.toNat_ushiftRight, Nat.shiftRight_eq_div_pow,
    Nat.add_sub_cancel_left]

theorem le32_eq (w : Word) : le32 w =
    [w.setWidth 8, (w >>> 8).setWidth 8, (w >>> 16).setWidth 8, (w >>> 24).setWidth 8] := by
  have hlow : BitVec.ofNat 8 (bits w.toNat 7 0) = w.setWidth 8 := by simpa using ofNat_bits_eq w 0
  rw [← hlow, ← ofNat_bits_eq w 8, ← ofNat_bits_eq w 16, ← ofNat_bits_eq w 24]
  rfl

/-- Four bytes enter the register as the 32-bit value they are (40_encoder.md R101). -/
theorem crcStep_le32 (h : p.refin = true) (c w : Word) :
    (le32 w).foldl (crcStep p) c = (crcShift p)^[32] (c ^^^ w) := by
  have hsplit : (crcShift p)^[32] (c ^^^ w) =
      (crcShift p)^[8] ((crcShift p)^[8] ((crcShift p)^[8] ((crcShift p)^[8] (c ^^^ w)))) := by
    simp only [← Function.iterate_add_apply]
  have hout : w >>> 32 = 0#32 := BitVec.ushiftRight_eq_zero le_rfl
  rw [hsplit]
  simp only [crcShift_iterate_xor_word h, ← BitVec.shiftRight_add, hout, BitVec.xor_zero]
  rw [le32_eq]
  rfl

/-- The register after a message and its checksum does not depend on the message. -/
theorem crcRegister_append_crc32 (b : List Byte) :
    crcRegister .standard (b ++ le32 (crc32 .standard b)) = (crcShift .standard)^[32] 0xFFFFFFFF#32 := by
  rw [crcRegister, List.foldl_append, crcStep_le32 rfl, crc32_standard, ← crcRegister, ← BitVec.xor_assoc,
    BitVec.xor_self, BitVec.zero_xor]

theorem crc32_append_crc32 (b : List Byte) : crc32 .standard (b ++ le32 (crc32 .standard b)) = 0x2144DF1C#32 := by
  rw [crc32_standard, crcRegister_append_crc32]
  decide +kernel

/-- Settles O5: the values are evaluated, and the residue is that of every message. -/
theorem checksumValuesAndResidue : Obligations.ChecksumValuesAndResidue := by
  refine ⟨test_crc_V1, ?_, test_crc_V3, ?_, ?_, test_crc_V6, ?_, crc32_append_crc32⟩ <;> decide +kernel

end Checksum

end Sys2Proof.Machine
end

/-!
SCOPE. The byte-serial datapath of 40_encoder.md R107: what each phase produces, that its phases put together make the
frame of the transaction-level operation, and what one step can do.
-/

section

namespace Sys2Proof.Machine

section Phases

variable {cfg : Config} {job : Job} {m : Serial}

theorem Serial.run_add (k n : Nat) (m : Serial) :
    Serial.run cfg job (k + n) m = Serial.run cfg job n (Serial.run cfg job k m) := by
  induction k generalizing m with
  | zero => rw [Nat.zero_add, Serial.run]
  | succ k ih => rw [Nat.succ_add, Serial.run, ih, Serial.run]

/-- The state in which HEADER leaves the datapath. -/
def Serial.afterHeader (cfg : Config) (m : Serial) : Serial :=
  { m with phase := .payload, header := [], frame := m.frame ++ m.header,
           crc := m.header.foldl (crcStep cfg.crc) m.crc, pos := m.pos + m.header.length }

theorem Serial.run_header (hphase : m.phase = .header) :
    Serial.run cfg job (m.header.length + 1) m = m.afterHeader cfg := by
  obtain ⟨phase, crc, pos, left, header, pixels, lane, tail, frame, error⟩ := m
  obtain rfl : phase = .header := hphase
  induction header generalizing crc pos frame with
  | nil => simp [Serial.run, Serial.step, Serial.headerStep, Serial.afterHeader]
  | cons b header ih =>
    refine (ih _ _ _).trans ?_
    simp [Serial.afterHeader, Nat.add_assoc, Nat.add_comm]

/-- The state in which a pixel's five steps leave the datapath: it is read, and its four bytes are produced. -/
def Serial.afterPixel (cfg : Config) (p : Pixel) (rest : List Pixel) (m : Serial) : Serial :=
  { m with pixels := rest, left := m.left - 1, frame := m.frame ++ (permute cfg.order p).bytes,
           crc := (permute cfg.order p).bytes.foldl (crcStep cfg.crc) m.crc, pos := m.pos + 4 }

theorem Serial.run_pixel {p : Pixel} {rest : List Pixel} (hphase : m.phase = .payload) (hlane : m.lane = [])
    (hpixels : m.pixels = p :: rest) (hleft : 0 < m.left) : Serial.run cfg job 5 m = m.afterPixel cfg p rest := by
  obtain ⟨phase, crc, pos, left, header, pixels, lane, tail, frame, error⟩ := m
  dsimp only at hphase hlane hpixels hleft
  obtain ⟨n, rfl⟩ := Nat.exists_eq_add_of_lt hleft
  subst hphase hlane hpixels
  simp [Serial.run, Serial.step, Serial.payloadStep, Serial.produce, Serial.afterPixel, Quad.bytes]

/-- The payload of a list of pixels (30_encoding.md R76). -/
def pixelBytes (order : Byte) (pixels : List Pixel) : List Byte := payloadBytes (pixels.map (permute order))

theorem pixelBytes_cons (order : Byte) (p : Pixel) (pixels : List Pixel) :
    pixelBytes order (p :: pixels) = (permute order p).bytes ++ pixelBytes order pixels := rfl

/-- The state in which PAYLOAD leaves the datapath: the trailer is formed from the register. -/
def Serial.afterPayload (cfg : Config) (m : Serial) : Serial :=
  { m with phase := .trailer, pixels := [], left := 0, frame := m.frame ++ pixelBytes cfg.order m.pixels,
           crc := (pixelBytes cfg.order m.pixels).foldl (crcStep cfg.crc) m.crc,
           pos := m.pos + (pixelBytes cfg.order m.pixels).length,
           tail := le32 (crcFinish cfg.crc ((pixelBytes cfg.order m.pixels).foldl (crcStep cfg.crc) m.crc)) }

theorem Serial.afterPayload_afterPixel {p : Pixel} {rest : List Pixel} (hpixels : m.pixels = p :: rest) :
    (m.afterPixel cfg p rest).afterPayload cfg = m.afterPayload cfg := by
  simp [Serial.afterPayload, Serial.afterPixel, hpixels, pixelBytes_cons, Nat.add_assoc]

theorem Serial.run_payload (hphase : m.phase = .payload) (hlane : m.lane = []) (hleft : m.left = m.pixels.length) :
    Serial.run cfg job (5 * m.pixels.length + 1) m = m.afterPayload cfg := by
  generalize hpixels : m.pixels = pixels at hleft ⊢
  induction pixels generalizing m with
  | nil =>
    obtain ⟨phase, crc, pos, left, header, pixels, lane, tail, frame, error⟩ := m
    dsimp only at hphase hlane hleft hpixels
    subst hphase hlane hleft hpixels
    simp [Serial.run, Serial.step, Serial.payloadStep, Serial.afterPayload, pixelBytes]
  | cons p rest ih =>
    have hpos : 0 < m.left := hleft ▸ Nat.succ_pos _
    have hrest : (m.afterPixel cfg p rest).left = rest.length := by rw [Serial.afterPixel, hleft]; rfl
    rw [List.length_cons, show 5 * (rest.length + 1) + 1 = 5 + (5 * rest.length + 1) by omega, Serial.run_add,
      Serial.run_pixel hphase hlane hpixels hpos, ih (m := m.afterPixel cfg p rest) hphase hlane rfl hrest,
      Serial.afterPayload_afterPixel hpixels]

/-- The state in which TRAILER leaves the datapath. -/
def Serial.afterTail (m : Serial) : Serial :=
  { m with phase := .done, tail := [], frame := m.frame ++ m.tail, pos := m.pos + m.tail.length }

theorem Serial.run_tail (hphase : m.phase = .trailer) :
    Serial.run cfg job (m.tail.length + 1) m = m.afterTail := by
  obtain ⟨phase, crc, pos, left, header, pixels, lane, tail, frame, error⟩ := m
  obtain rfl : phase = .trailer := hphase
  induction tail generalizing pos frame with
  | nil => simp [Serial.run, Serial.step, Serial.tailStep, Serial.afterTail]
  | cons b tail ih =>
    refine (ih _ _).trans ?_
    simp [Serial.afterTail, Nat.add_assoc, Nat.add_comm]

/-- A stopped datapath stays as it is. -/
theorem Serial.run_faulted (hphase : m.phase = .faulted) (k : Nat) : Serial.run cfg job k m = m := by
  induction k with
  | zero => rfl
  | succ k ih => rw [Serial.run, Serial.step, hphase]; exact ih

/-- The datapath is in DONE with the frame of a body and the registers that are left then. -/
structure Serial.DoneWith (cfg : Config) (body : List Byte) (m : Serial) : Prop where
  phase : m.phase = .done
  frame : m.frame = withTrailer cfg.crc body
  crc   : m.crc = crcRegister cfg.crc body
  pos   : m.pos = body.length + 4
  left  : m.left = 0
  error : m.error = none

/-- From INIT's registers HEADER, PAYLOAD and TRAILER make the frame of the header and the pixels. -/
theorem Serial.run_doneWith (hphase : m.phase = .header) (hcrc : m.crc = cfg.crc.init) (hpos : m.pos = 0)
    (hleft : m.left = m.pixels.length) (hlane : m.lane = []) (hframe : m.frame = []) (herror : m.error = none) :
    Serial.DoneWith cfg (m.header ++ pixelBytes cfg.order m.pixels)
      (Serial.run cfg job (m.header.length + 5 * m.pixels.length + 7) m) := by
  have hpayload : Serial.run cfg job (5 * m.pixels.length + 1) (m.afterHeader cfg) =
      (m.afterHeader cfg).afterPayload cfg := Serial.run_payload (m := m.afterHeader cfg) rfl hlane hleft
  have htail : Serial.run cfg job 5 ((m.afterHeader cfg).afterPayload cfg) =
      ((m.afterHeader cfg).afterPayload cfg).afterTail :=
    Serial.run_tail (m := (m.afterHeader cfg).afterPayload cfg) rfl
  rw [show m.header.length + 5 * m.pixels.length + 7 = m.header.length + 1 + (5 * m.pixels.length + 1 + 5) by omega,
    Serial.run_add, Serial.run_header hphase, Serial.run_add, hpayload, htail]
  constructor <;>
    simp [Serial.afterTail, Serial.afterPayload, Serial.afterHeader, hcrc, hpos, hframe, herror, withTrailer, crc32,
      crcRegister]

/-- An operation whose checks pass has INIT's registers after two steps. -/
theorem Serial.run_two_of_check (hphase : m.phase = .check) (hcheck : m.check job = { m with phase := .init }) :
    Serial.run cfg job 2 m = Serial.init cfg job { m with phase := .init } := by
  simp only [Serial.run, Serial.step, hphase, hcheck]

theorem Serial.check_encpix_init {c : Byte} {pixels : List Pixel} (hc : c ≠ Config.chLatch)
    (hlen : pixels.length ≤ Config.maxCount) : m.check (.encpix c pixels) = { m with phase := .init } := by
  rw [Serial.check, if_neg hc, if_neg (Nat.not_lt.2 hlen)]

theorem Serial.run_encpix_doneWith {c : Byte} {pixels : List Pixel} (hc : c ≠ Config.chLatch)
    (hlen : pixels.length ≤ Config.maxCount) (hphase : m.phase = .check) (hlane : m.lane = []) (hframe : m.frame = [])
    (herror : m.error = none) :
    Serial.DoneWith cfg (encpixBody cfg c pixels)
      (Serial.run cfg (.encpix c pixels) (19 + 5 * pixels.length) m) := by
  rw [show 19 + 5 * pixels.length = 2 + (10 + 5 * pixels.length + 7) by omega, Serial.run_add,
    Serial.run_two_of_check hphase (Serial.check_encpix_init hc hlen), encpixBody, pixelBody, List.length_map]
  exact Serial.run_doneWith (m := Serial.init cfg (.encpix c pixels) { m with phase := .init }) rfl rfl rfl rfl
    hlane hframe herror

theorem Serial.run_enclatch_doneWith (hphase : m.phase = .check) (hlane : m.lane = []) (hframe : m.frame = [])
    (herror : m.error = none) : Serial.DoneWith cfg (latchBody cfg.magic) (Serial.run cfg .enclatch 15 m) := by
  rw [show 15 = 2 + (6 + 5 * 0 + 7) from rfl, Serial.run_add, Serial.run_two_of_check hphase rfl]
  exact Serial.run_doneWith (m := Serial.init cfg .enclatch { m with phase := .init }) rfl rfl rfl rfl
    hlane hframe herror

/-- An operation that fails a check stops in its first step. -/
theorem Serial.run_of_check_faulted {e : ErrorKind} (hphase : m.phase = .check)
    (hcheck : m.check job = { m with phase := .faulted, error := some e }) (k : Nat) :
    Serial.run cfg job (k + 1) m = { m with phase := .faulted, error := some e } := by
  rw [Serial.run, Serial.step, hphase]
  exact (congrArg (Serial.run cfg job k) hcheck).trans (Serial.run_faulted rfl k)

/-- An ENCPIX that ends in an error failed one of its checks, and so does CHECK. -/
theorem Serial.check_encpix_faulted {s t : State} {c : Byte} {pixels : List Pixel} {e : ErrorKind}
    (h : exec (.encpix c pixels) s = .next t) (ho : t.outcome = .fault e) :
    m.check (.encpix c pixels) = { m with phase := .faulted, error := some e } := by
  rcases exec_encpix_cases c pixels s with ⟨_, e⟩ | ⟨_, hc, e⟩ | ⟨_, hc, hlen, e⟩ | ⟨_, _, _, e⟩ <;>
    cases e.symm.trans h <;> cases ho
  · rw [Serial.check, if_pos hc]
  · rw [Serial.check, if_neg hc, if_pos hlen]

end Phases

/-- Settles O22: both ends are those of the body's frame, and CHECK makes the checks of the operation. -/
theorem serialDatapathMakesTheSameFrame : Obligations.SerialDatapathMakesTheSameFrame := by
  intro s t crc pos left
  refine ⟨fun c pixels f h ho => ?_, fun f h ho => ?_, fun c pixels e k h ho => ?_⟩
  · obtain ⟨-, hc, hlen, rfl, rfl⟩ := exec_encpix_frame h ho
    have hdone := Serial.run_encpix_doneWith (cfg := s.cfg) (m := Serial.start crc pos left)
      (Config.ne_chLatch_iff.2 hc) hlen rfl rfl rfl rfl
    have hpos : (encpixBody s.cfg c pixels).length + 4 = 14 + 4 * pixels.length := by
      rw [encpixBody_length]
      omega
    exact ⟨_, rfl, hdone.phase, hdone.frame, hdone.pos.trans hpos, hdone.left, hdone.crc.trans (s.afterEncode_crc _).symm,
      hdone.pos.trans (s.afterEncode_pos _).symm, hdone.error⟩
  · obtain ⟨rfl, rfl⟩ := exec_enclatch_frame h ho
    have hdone := Serial.run_enclatch_doneWith (cfg := s.cfg) (m := Serial.start crc pos left) rfl rfl rfl rfl
    exact ⟨_, rfl, hdone.phase, hdone.frame, hdone.pos, hdone.left, hdone.crc.trans (s.afterEncode_crc _).symm,
      hdone.pos.trans (s.afterEncode_pos _).symm, hdone.error⟩
  · exact ⟨_, Serial.run_of_check_faulted rfl (Serial.check_encpix_faulted h ho) k, rfl, rfl, rfl⟩

section Steps

variable {cfg : Config} {job : Job} {m : Serial}

/-- A step that keeps the phase or goes to the given next one, and leaves the frame or appends one byte to it. -/
def Serial.Advances (m : Serial) (next : Phase) (m' : Serial) : Prop :=
  (m'.phase = m.phase ∨ m'.phase = next) ∧ (m'.frame = m.frame ∨ ∃ b, m'.frame = m.frame ++ [b])

theorem Serial.check_cases (job : Job) (m : Serial) :
    m.check job = { m with phase := .init } ∨ ∃ e, m.check job = { m with phase := .faulted, error := some e } := by
  cases job with
  | encpix c pixels =>
    rw [Serial.check]
    split_ifs
    · exact .inr ⟨_, rfl⟩
    · exact .inr ⟨_, rfl⟩
    · exact .inl rfl
  | enclatch => exact .inl rfl

theorem Serial.init_advances (m : Serial) : m.Advances .header (m.init cfg job) := by
  cases job <;> exact ⟨.inr rfl, .inl rfl⟩

theorem Serial.headerStep_advances (m : Serial) : m.Advances .payload (m.headerStep cfg) := by
  unfold Serial.headerStep
  split
  · next b _ _ => exact ⟨.inl rfl, .inr ⟨b, rfl⟩⟩
  · exact ⟨.inr rfl, .inl rfl⟩

theorem Serial.payloadStep_advances (m : Serial) : m.Advances .trailer (m.payloadStep cfg) := by
  unfold Serial.payloadStep
  split
  · next b _ => exact ⟨.inl rfl, .inr ⟨b, rfl⟩⟩
  · next b _ _ _ => exact ⟨.inl rfl, .inr ⟨b, rfl⟩⟩
  · split
    · exact ⟨.inr rfl, .inl rfl⟩
    · exact ⟨.inr rfl, .inl rfl⟩
    · exact ⟨.inl rfl, .inl rfl⟩

theorem Serial.tailStep_advances (m : Serial) : m.Advances .done m.tailStep := by
  unfold Serial.tailStep
  split
  · next b _ _ => exact ⟨.inl rfl, .inr ⟨b, rfl⟩⟩
  · exact ⟨.inr rfl, .inl rfl⟩

/-- A phase that advances to the next one in rank, short of the fault, obeys the order of 40_encoder.md R107. -/
theorem Serial.Advances.phaseOrder {next : Phase} {m' : Serial} (h : m.Advances next m')
    (hrank : next.rank = m.phase.rank + 1) (hnext : next ≠ .faulted) :
    (m'.phase = m.phase ∨ m'.phase.rank = m.phase.rank + 1 ∨ (m.phase = .check ∧ m'.phase = .faulted)) ∧
    (m'.phase = .faulted → m.phase = .check ∨ m.phase = .faulted) ∧
    (m'.frame = m.frame ∨ ∃ b, m'.frame = m.frame ++ [b]) := by
  obtain ⟨hphase | hphase, hframe⟩ := h
  · exact ⟨.inl hphase, fun hf => .inr (hphase.symm.trans hf), hframe⟩
  · exact ⟨.inr (.inl (by rw [hphase, hrank])), fun hf => absurd (hphase.symm.trans hf) hnext, hframe⟩

end Steps

/-- Settles O23, phase by phase. -/
theorem serialPhasesOnlyAdvance : Obligations.SerialPhasesOnlyAdvance := by
  intro cfg job m
  unfold Serial.step
  split
  · next hphase =>
    rcases m.check_cases job with h | ⟨e, h⟩ <;> rw [h]
    · exact ⟨.inr (.inl (by rw [hphase]; rfl)), fun _ => .inl hphase, .inl rfl⟩
    · exact ⟨.inr (.inr ⟨hphase, rfl⟩), fun _ => .inl hphase, .inl rfl⟩
  · next hphase => exact m.init_advances.phaseOrder (by rw [hphase]; rfl) (by decide)
  · next hphase => exact m.headerStep_advances.phaseOrder (by rw [hphase]; rfl) (by decide)
  · next hphase => exact m.payloadStep_advances.phaseOrder (by rw [hphase]; rfl) (by decide)
  · next hphase => exact m.tailStep_advances.phaseOrder (by rw [hphase]; rfl) (by decide)
  · exact ⟨.inl rfl, .inr, .inl rfl⟩
  · exact ⟨.inl rfl, .inr, .inl rfl⟩

end Sys2Proof.Machine
end

/-!
SCOPE. The mapper of 41_mapper.md: the index mapping and its inverse, the four operations, and that the rings share out
the allocated strip: rings in order of construction follow one another without overlap and without a gap.
-/

section

namespace Sys2Proof.Machine

section Mapping

variable {d : RingDesc}

/-- `Unmap` undoes `Map` (41_mapper.md R132). -/
theorem unmapIndex_mapIndex {i : Nat} (hi : i < d.count) : unmapIndex d (mapIndex d i) = i := by
  unfold unmapIndex mapIndex
  split <;> omega

/-- `Unmap` lands below the count (41_mapper.md R132). -/
theorem unmapIndex_lt_count {g : Nat} (hlow : d.offset ≤ g) (hhigh : g < d.offset + d.count) :
    unmapIndex d g < d.count := by
  unfold unmapIndex
  split <;> omega

/-- `Map` undoes `Unmap` in the ring's range (41_mapper.md R132). -/
theorem mapIndex_unmapIndex {g : Nat} (hlow : d.offset ≤ g) (hhigh : g < d.offset + d.count) :
    mapIndex d (unmapIndex d g) = g := by
  unfold unmapIndex mapIndex
  split <;> omega

theorem mapIndex_of_forward (h : d.reverse = false) (i : Nat) : mapIndex d i = d.offset + i := by
  simp [mapIndex, h]

theorem mapIndex_of_reverse (h : d.reverse = true) (i : Nat) : mapIndex d i = d.offset + (d.count - 1 - i) := by
  simp [mapIndex, h]

end Mapping

/-- Settles O28: `Unmap` is the inverse on both sides, and a left inverse makes `Map` injective. -/
theorem mapIsABijection : Obligations.MapIsABijection := by
  refine fun d => ⟨fun i hi => ?_, fun g hlow hhigh => ?_, fun i j hi hj heq => ?_⟩
  · obtain ⟨hlow, hhigh⟩ := mapIndex_range hi
    exact ⟨hlow, hhigh, unmapIndex_mapIndex hi⟩
  · exact ⟨unmapIndex_lt_count hlow hhigh, mapIndex_unmapIndex hlow hhigh⟩
  · calc i = unmapIndex d (mapIndex d i) := (unmapIndex_mapIndex hi).symm
      _ = unmapIndex d (mapIndex d j) := by rw [heq]
      _ = j := unmapIndex_mapIndex hj

/-- Settles O27: both bounds come from the end of the ring's range. -/
theorem mapFollowsItsFormula : Obligations.MapFollowsItsFormula := by
  refine fun d i hi => ⟨fun h => mapIndex_of_forward h i, fun h => ⟨mapIndex_of_reverse h i, ?_⟩,
    fun cfg hend => ⟨?_, ?_⟩⟩
  · rw [mapIndex_of_reverse h]; omega
  · exact Nat.lt_of_lt_of_le (mapIndex_range hi).2 hend
  · exact Nat.lt_of_le_of_lt hend cfg.stripLen_lt_two_pow_idxW

section Partition

variable {s : State} {r q : Nat} {d e : RingDesc}

/-- A ring ends at or below the beginning of every later one (10_state.md R27 (b)). The induction is on the number of
rings between the two. -/
theorem State.Inv.ringEnd_le_offset (hs : s.Inv) (hd : s.ringAt r = some d) (he : s.ringAt q = some e) (hrq : r < q) :
    d.offset + d.count ≤ e.offset := by
  obtain ⟨k, rfl⟩ := Nat.exists_eq_add_of_lt hrq
  induction k generalizing e with
  | zero => exact (hs.next r d e hd he).ge
  | succ k ih =>
    have hlt := hs.lt_nrings he
    obtain ⟨p, hp⟩ := Option.ne_none_iff_exists'.1 (hs.ringAt_ne_none (r := r + k + 1) (by omega))
    calc d.offset + d.count ≤ p.offset := ih hp (by omega)
      _ ≤ p.offset + p.count := Nat.le_add_right ..
      _ = e.offset := (hs.next _ p e hp he).symm

theorem State.Inv.mapIndex_lt_of_lt (hs : s.Inv) {i j : Nat} (hd : s.ringAt r = some d) (he : s.ringAt q = some e)
    (hrq : r < q) (hi : i < d.count) (hj : j < e.count) : mapIndex d i < mapIndex e j :=
  calc mapIndex d i < d.offset + d.count := (mapIndex_range hi).2
    _ ≤ e.offset := hs.ringEnd_le_offset hd he hrq
    _ ≤ mapIndex e j := (mapIndex_range hj).1

/-- Two rings never map to one global index (41_mapper.md R137). -/
theorem State.Inv.mapIndex_ne (hs : s.Inv) {i j : Nat} (hd : s.ringAt r = some d) (he : s.ringAt q = some e)
    (hrq : r ≠ q) (hi : i < d.count) (hj : j < e.count) : mapIndex d i ≠ mapIndex e j := by
  rcases Nat.lt_or_gt_of_ne hrq with hlt | hgt
  · exact (hs.mapIndex_lt_of_lt hd he hlt hi hj).ne
  · exact (hs.mapIndex_lt_of_lt he hd hgt hj hi).ne'

/-- What lies below the end of a ring is in the range of that ring or of an earlier one (10_state.md R27 (a), (b)). -/
theorem State.Inv.exists_ring_of_lt_ringEnd (hs : s.Inv) {g : Nat} (hd : s.ringAt r = some d)
    (hg : g < d.offset + d.count) : ∃ q e, s.ringAt q = some e ∧ e.offset ≤ g ∧ g < e.offset + e.count := by
  induction r generalizing d with
  | zero => exact ⟨0, d, hd, by rw [hs.first d hd]; exact Nat.zero_le g, hg⟩
  | succ r ih =>
    by_cases hlow : d.offset ≤ g
    · exact ⟨r + 1, d, hd, hlow, hg⟩
    · have hlt := hs.lt_nrings hd
      obtain ⟨p, hp⟩ := Option.ne_none_iff_exists'.1 (hs.ringAt_ne_none (r := r) (by omega))
      exact ih hp (by rw [← hs.next r p d hp hd]; omega)

/-- Every allocated index is in the range of a ring: the last ring ends at the cursor (10_state.md R27 (c)). -/
theorem State.Inv.exists_ring_of_lt_cursor (hs : s.Inv) {g : Nat} (hg : g < s.cursor) :
    ∃ q e, s.ringAt q = some e ∧ e.offset ≤ g ∧ g < e.offset + e.count := by
  cases hn : s.nrings with
  | zero => exact absurd (hs.cursor_eq_zero hn) (by omega)
  | succ r =>
    obtain ⟨d, hd⟩ := Option.ne_none_iff_exists'.1 (hs.ringAt_ne_none (r := r) (by omega))
    exact hs.exists_ring_of_lt_ringEnd hd (hs.last r d hn hd ▸ hg)

theorem State.Inv.mapIndex_lt_cursor (hs : s.Inv) {i : Nat} (hd : s.ringAt r = some d) (hi : i < d.count) :
    mapIndex d i < s.cursor :=
  Nat.lt_of_lt_of_le (mapIndex_range hi).2 (hs.ringEnd_le_cursor hd)

/-- A pixel stored through one ring is not one another ring maps. -/
theorem State.Inv.setPixel_stripAt_otherRing (hs : s.Inv) {i j : Nat} (hd : s.ringAt r = some d)
    (he : s.ringAt q = some e) (hrq : r ≠ q) (hi : i < d.count) (hj : j < e.count) (color : Pixel) :
    (s.setPixel (mapIndex d i) color).stripAt (mapIndex e j) = s.stripAt (mapIndex e j) := by
  rw [State.setPixel_stripAt, if_neg (hs.mapIndex_ne hd he hrq hi hj)]

end Partition

/-- Settles O35: an allocated index is mapped from what `Unmap` gives in the ring whose range it is in. -/
theorem ringsPartitionTheAllocatedStrip : Obligations.RingsPartitionTheAllocatedStrip := by
  refine fun s hs => ⟨fun r q d e i j hd he hrq hi hj => hs.mapIndex_ne hd he hrq hi hj, fun g hg => ?_,
    fun r d i hd hi => ⟨hs.mapIndex_lt_cursor hd hi, hs.mapIndex_lt_stripLen hd hi⟩⟩
  obtain ⟨q, e, he, hlow, hhigh⟩ := hs.exists_ring_of_lt_cursor hg
  exact ⟨q, e, unmapIndex e g, he, unmapIndex_lt_count hlow hhigh, mapIndex_unmapIndex hlow hhigh⟩

/-- Settles O36: an RSET that answers a next state has changed the strip at most at an index of its own ring. -/
theorem storeNeverTouchesAnotherRing : Obligations.StoreNeverTouchesAnotherRing := by
  intro s t r q i j e color hs h hrq he hj
  rcases exec_rset_cases r i color s with ⟨_, hx⟩ | ⟨_, _, hx⟩ | ⟨_, _, _, _, hx⟩ | ⟨_, _, _, _, _, hx⟩ |
    ⟨d, _, hd, hi, _, hx⟩ <;> cases hx.symm.trans h
  · rfl
  · exact hs.setPixel_stripAt_otherRing hd he hrq hi hj color

section Operands

variable {r i : Nat} {s : State} {d : RingDesc}

theorem withRing_refused (k : RingDesc → Outcome) (h : s.nrings ≤ r) : withRing r s k = .refused (.noSuchRing r) :=
  if_pos h

theorem withIndex_outside (k : Nat → Outcome) (hr : r < s.nrings) (hd : s.ringAt r = some d) (hi : d.count ≤ i) :
    withIndex r i s k = .next (s.report (.fault (.indexError r i))) :=
  (withRing_eq _ hr hd).trans (if_pos hi)

theorem withIndex_eq (k : Nat → Outcome) (hr : r < s.nrings) (hd : s.ringAt r = some d) (hi : i < d.count) :
    withIndex r i s k = k (mapIndex d i) :=
  (withRing_eq _ hr hd).trans (if_neg (Nat.not_le.2 hi))

end Operands

/-- Settles O29: the three ways RALLOC can end, in the order of its checks. -/
theorem rallocFollowsItsRule : Obligations.RallocFollowsItsRule := by
  intro s n rev
  rcases exec_ralloc_cases n rev s with ⟨hcap, e⟩ | ⟨hcap, hlen, e⟩ | ⟨hcap, hlen, e⟩
  · rw [if_pos hcap]
    exact e
  · rw [if_neg hcap, if_pos hlen]
    exact e
  · rw [if_neg hcap, if_neg (Nat.not_lt.2 hlen)]
    exact ⟨_, e, rfl, s.addRing_ringAt_same n rev, fun r hr => s.addRing_ringAt_of_ne n rev hr, rfl, rfl,
      fun _ => rfl, ⟨rfl, rfl, rfl, rfl⟩, rfl, rfl, rfl⟩

/-- Settles O30: inside the ring RMAP only reports the global index, which is below the cursor with the ring's end. -/
theorem rmapFollowsItsRule : Obligations.RmapFollowsItsRule := by
  intro s r i
  split
  · next hr => exact withRing_refused _ hr
  · next hr =>
    intro d hd
    rw [Nat.not_le] at hr
    split
    · next hi => exact withIndex_outside (fun g => complete (.index g) s) hr hd hi
    · next hi =>
      rw [Nat.not_le] at hi
      exact ⟨_, withIndex_eq (fun g => complete (.index g) s) hr hd hi, rfl,
        fun hs => ⟨hs.mapIndex_lt_cursor hd hi, hs.bound⟩, s.report_keeps_block _⟩

/-- Settles O31: inside the ring RSET stores at the global index, which is in the strip and in no other ring. -/
theorem rsetFollowsItsRule : Obligations.RsetFollowsItsRule := by
  intro s r i color hs
  split
  · next hr => exact withRing_refused _ hr
  · next hr =>
    intro d hd
    rw [Nat.not_le] at hr
    split
    · next hi => exact withIndex_outside (memWrite · color s) hr hd hi
    · next hi =>
      rw [Nat.not_le] at hi
      obtain ⟨hlow, hhigh⟩ := mapIndex_range hi
      refine ⟨_, exec_rset_eq color hr hd hi (hs.mapIndex_lt_stripLen hd hi), rfl, ?_, fun g hg => ?_, hlow, hhigh,
        fun q e j hq he hj => hs.setPixel_stripAt_otherRing hd he hq.symm hi hj color, rfl, rfl, fun _ => rfl,
        ⟨rfl, rfl, rfl, rfl⟩, rfl, rfl, rfl⟩
      · rw [State.report_stripAt, State.setPixel_stripAt, if_pos rfl]
      · rw [State.report_stripAt, State.setPixel_stripAt, if_neg hg.symm]

/-- Settles O32: RNUM only reports the count. -/
theorem rnumFollowsItsRule : Obligations.RnumFollowsItsRule := by
  intro s r
  split
  · next hr => exact withRing_refused _ hr
  · next hr =>
    intro d hd
    exact ⟨_, withRing_eq _ (Nat.not_le.1 hr) hd, rfl, s.report_keeps_block _⟩

end Sys2Proof.Machine
end

/-!
SCOPE. The error kinds of 60_exceptions.md: which instruction raises which kind and when, what a fault leaves, and the
steps with nothing to execute.
-/

section

namespace Sys2Proof.Machine

section Faults

variable {i : Instr} {s t : State} {e : ErrorKind}

/-- An instruction that ends in an error kind only reports it: its other ends report a result (60_exceptions.md R158). -/
theorem exec_fault_eq_report (h : exec i s = .next t) (ho : t.outcome = .fault e) : t = s.report (.fault e) := by
  rcases exec_next_cases h with ⟨o, rfl⟩ | ⟨_, _, rfl⟩ | ⟨_, _, _, _, _, rfl⟩ | ⟨_, _, _, _, _, _, _, _, rfl⟩ <;>
    cases ho
  rfl

/-- The recorded outcome is overwritten where an operation ends and read nowhere before (10_state.md R32). -/
theorem exec_report (i : Instr) (s : State) (o : OpOutcome) : exec i (s.report o) = exec i s := by
  cases i <;> rfl

/-- The instruction that raises an error kind, and its cause with the checks before it passed (60_exceptions.md R150 to
R154, R157). -/
def Raises (s : State) (i : Instr) : ErrorKind → Prop
  | .encodingError l => ∃ c pixels, i = .encpix c pixels ∧ orderLegal s.cfg.order = true ∧ c ≠ Config.chLatch ∧
      Config.maxCount < pixels.length ∧ l = pixels.length
  | .invalidChannelError c => ∃ pixels, i = .encpix c pixels ∧ orderLegal s.cfg.order = true ∧ c = Config.chLatch
  | .indexError r k => ∃ d, (i = .rmap r k ∨ ∃ color, i = .rset r k color) ∧ r < s.nrings ∧ s.ringAt r = some d ∧
      d.count ≤ k
  | .allocationError .tableFull => ∃ n rev, i = .ralloc n rev ∧ s.nrings = s.cfg.ringCap
  | .allocationError .stripFull => ∃ n rev, i = .ralloc n rev ∧ s.nrings ≠ s.cfg.ringCap ∧
      s.cfg.stripLen < s.cursor + n
  | .transportError => False

theorem Raises.of_exec (h : exec i s = .next t) (ho : t.outcome = .fault e) : Raises s i e := by
  cases i with
  | pixel channel order payload trailer =>
    rcases exec_pixel_cases channel order payload trailer s with ⟨_, hx⟩ | ⟨_, hx⟩ <;> cases hx.symm.trans h
    cases ho
  | latch trailer => cases h; cases ho
  | encpix c pixels =>
    rcases exec_encpix_cases c pixels s with ⟨_, hx⟩ | ⟨horder, hc, hx⟩ | ⟨horder, hc, hlen, hx⟩ | ⟨_, _, _, hx⟩ <;>
      cases hx.symm.trans h <;> cases ho
    · exact ⟨pixels, rfl, horder, hc⟩
    · exact ⟨c, pixels, rfl, horder, hc, hlen, rfl⟩
  | enclatch =>
    cases (exec_enclatch s).symm.trans h
    cases ho
  | ralloc n rev =>
    rcases exec_ralloc_cases n rev s with ⟨hcap, hx⟩ | ⟨hcap, hlen, hx⟩ | ⟨_, _, hx⟩ <;>
      cases hx.symm.trans h <;> cases ho
    · exact ⟨n, rev, rfl, hcap⟩
    · exact ⟨n, rev, rfl, hcap, hlen⟩
  | rmap r k =>
    rcases exec_rmap_cases r k s with ⟨_, hx⟩ | ⟨_, _, hx⟩ | ⟨d, hr, hd, hk, hx⟩ | ⟨_, _, _, _, hx⟩ <;>
      cases hx.symm.trans h <;> cases ho
    exact ⟨d, .inl rfl, hr, hd, hk⟩
  | rset r k color =>
    rcases exec_rset_cases r k color s with ⟨_, hx⟩ | ⟨_, _, hx⟩ | ⟨d, hr, hd, hk, hx⟩ | ⟨_, _, _, _, _, hx⟩ |
      ⟨_, _, _, _, _, hx⟩ <;> cases hx.symm.trans h <;> cases ho
    exact ⟨d, .inr ⟨color, rfl⟩, hr, hd, hk⟩
  | rnum r =>
    rcases exec_rnum_cases r s with ⟨_, hx⟩ | ⟨_, _, hx⟩ | ⟨_, _, _, hx⟩ <;> cases hx.symm.trans h
    cases ho

theorem Raises.exec_eq (h : Raises s i e) : exec i s = .next (s.report (.fault e)) := by
  match i, e, h with
  | _, .encodingError _, ⟨_, _, rfl, horder, hc, hlen, rfl⟩ => exact exec_encpix_of_overlong horder hc hlen
  | _, .invalidChannelError _, ⟨_, rfl, horder, hc⟩ => exact exec_encpix_of_chLatch horder hc
  | _, .indexError _ _, ⟨_, .inl rfl, hr, hd, hk⟩ => exact withIndex_outside (fun g => complete (.index g) s) hr hd hk
  | _, .indexError _ _, ⟨_, .inr ⟨color, rfl⟩, hr, hd, hk⟩ => exact withIndex_outside (memWrite · color s) hr hd hk
  | _, .allocationError .tableFull, ⟨_, _, rfl, hcap⟩ => exact if_pos hcap
  | _, .allocationError .stripFull, ⟨_, _, rfl, hcap, hlen⟩ => exact (if_neg hcap).trans (if_pos hlen)

/-- When an instruction ends in an error kind, whatever the state it leaves. -/
theorem exec_fault_iff : (∃ t, exec i s = .next t ∧ t.outcome = .fault e) ↔ Raises s i e :=
  ⟨fun ⟨_, h, ho⟩ => .of_exec h ho, fun h => ⟨_, h.exec_eq, rfl⟩⟩

/-- When an instruction only records an error kind. -/
theorem exec_eq_fault_iff : exec i s = .next (s.report (.fault e)) ↔ Raises s i e :=
  ⟨fun h => .of_exec h rfl, fun h => h.exec_eq⟩

end Faults

/-- Settles O43: no end of an instruction but the fault entry records an error kind. -/
theorem faultsChangeNothing : Obligations.FaultsChangeNothing :=
  fun _ _ _ _ => exec_fault_eq_report

/-- Settles O44: a fault leaves the old state with another outcome, which no instruction reads. -/
theorem faultsAreNotSticky : Obligations.FaultsAreNotSticky := by
  refine ⟨exec_report, fun i j s t e h ho => ?_⟩
  rw [exec_fault_eq_report h ho, exec_report]

/-- Settles O45, kind by kind from `Raises`. -/
theorem errorKindsFollowTheirTable : Obligations.ErrorKindsFollowTheirTable := by
  refine ⟨fun i s t e h ho => ?_, fun _ _ _ _ _ => ⟨rfl, rfl, rfl, rfl, rfl⟩, rfl, fun _ => rfl, fun _ => rfl⟩
  match e, Raises.of_exec h ho with
  | .encodingError _, ⟨c, pixels, hi, _, _, hlen, hl⟩ => exact ⟨c, pixels, hi, hl, hl ▸ hlen⟩
  | .invalidChannelError _, ⟨pixels, hi, _, hc⟩ => exact ⟨pixels, hi, hc⟩
  | .indexError _ _, ⟨d, hi, _, hd, hk⟩ => exact ⟨d, hd, hk, hi⟩
  | .allocationError .tableFull, ⟨n, rev, hi, hcap⟩ => exact ⟨n, rev, hi, hcap⟩
  | .allocationError .stripFull, ⟨n, rev, hi, _, hlen⟩ => exact ⟨n, rev, hi, hlen⟩

/-- Settles O46: the channel is the first check of an ENCPIX that is not refused. -/
theorem invalidChannelExactlyOn255 : Obligations.InvalidChannelExactlyOn255 := by
  intro s c pixels horder
  rw [exec_fault_iff]
  simp [Raises, horder, Config.chLatch]

/-- Settles O47: the length is checked after the channel. -/
theorem encodingErrorExactlyOnOverlongSequences : Obligations.EncodingErrorExactlyOnOverlongSequences := by
  intro s c pixels horder
  rw [exists_comm]
  simp [exec_fault_iff, Raises, horder, Config.chLatch, Config.maxCount]

/-- Settles O48: the ring holds one descriptor, whose count is the bound. -/
theorem indexErrorExactlyOutsideTheRing : Obligations.IndexErrorExactlyOutsideTheRing := by
  intro s r i d color hr hd
  simp [exec_eq_fault_iff, Raises, hr, hd]

/-- Settles O49: the two checks of RALLOC in their order. -/
theorem allocationErrorExactlyWhenFull : Obligations.AllocationErrorExactlyWhenFull := by
  intro s n rev
  simp [exec_eq_fault_iff, Raises]

section Idle

variable {s : State}

theorem decode_of_short {magic : Quad} {bytes : List Byte} {n : Nat} (h : frameLen magic bytes = .len n)
    (hn : bytes.length < n) : decode magic bytes = .needMore := by
  simp only [decode, h, if_pos hn]

theorem decode_of_notAFrame {magic : Quad} {bytes : List Byte} {why : Reject}
    (h : frameLen magic bytes = .notAFrame why) : decode magic bytes = .rejected why := by
  simp only [decode, h]

/-- With no operation and no whole frame a step idles (60_exceptions.md R156). -/
theorem step_of_needMore (hops : s.ops = []) (hrx : decode s.cfg.magic s.rx = .needMore) : step s = .next s := by
  simp only [step, fetch, hops, hrx]

/-- With no operation waiting, bytes that are no frame are refused (30_encoding.md R78). -/
theorem step_of_rejected {why : Reject} (hops : s.ops = []) (hrx : decode s.cfg.magic s.rx = .rejected why) :
    step s = .refused (.notAFrame why) := by
  simp only [step, fetch, hops, hrx]

end Idle

/-- Settles O55: no bytes and an incomplete frame both decode to `needMore`. -/
theorem stepWaitsOrRejects : Obligations.StepWaitsOrRejects := by
  refine fun s hops => ⟨fun hrx => ?_, step_of_needMore hops, fun n hlen hn => ?_, fun why hwhy => ?_⟩
  · exact step_of_needMore hops (by rw [hrx, decode_nil])
  · exact step_of_needMore hops (decode_of_short hlen hn)
  · exact step_of_rejected hops (decode_of_notAFrame hwhy)

end Sys2Proof.Machine
end

/-!
SCOPE. The runs of 70_reset_and_hazards.md: what a list of operations does in turn, what the operations of a tick add to
the output log, and what the stores of a shutdown leave in the strip.
-/

section

namespace Sys2Proof.Machine

section Runs

variable {i : Instr} {ops : List Instr} {s t : State}

theorem runAll_cons (h : exec i s = .next t) : runAll (i :: ops) s = runAll ops t := by
  rw [runAll, h]

theorem runAll_cons_eq_next (h : runAll (i :: ops) s = .next t) :
    ∃ u, exec i s = .next u ∧ runAll ops u = .next t := by
  cases hi : exec i s with
  | next u => exact ⟨u, rfl, runAll_cons hi ▸ h⟩
  | fault => rw [runAll, hi] at h; cases h
  | refused => rw [runAll, hi] at h; cases h

/-- Operations after a completed run go on from where it ended. -/
theorem runAll_append (h : runAll ops s = .next t) (more : List Instr) : runAll (ops ++ more) s = runAll more t := by
  induction ops generalizing s with
  | nil => cases h; rfl
  | cons i ops ih =>
    obtain ⟨u, hi, hrest⟩ := runAll_cons_eq_next h
    exact (runAll_cons hi).trans (ih hrest)

theorem runAll_keeps_inv (hs : s.Inv) (h : runAll ops s = .next t) : t.Inv := by
  induction ops generalizing s with
  | nil => cases h; exact hs
  | cons i ops ih =>
    obtain ⟨u, hi, hrest⟩ := runAll_cons_eq_next h
    exact ih (exec_keeps_inv hs hi) hrest

end Runs

section Tick

variable {s : State} {buffers : List (Byte × List Pixel)}

/-- The wire frames of buffers, in the order given (30_encoding.md R84). -/
def bufferFrames (cfg : Config) (buffers : List (Byte × List Pixel)) : List Instr :=
  buffers.map fun b => encpixFrame cfg b.1 b.2

/-- A run of encodable buffers and the latch appends their frames and the latch frame, and nothing else
(70_reset_and_hazards.md R184, 40_encoder.md R112). -/
theorem runAll_framesThenLatch (horder : orderLegal s.cfg.order = true)
    (hb : ∀ b ∈ buffers, b.1.toNat ≤ 254 ∧ b.2.length ≤ 65535) :
    ∃ t produced, runAll (framesThenLatch buffers) s = .next t ∧ t.out = s.out ++ produced ∧
      parseStream s.cfg.magic produced = some (bufferFrames s.cfg buffers ++ [enclatchFrame s.cfg]) ∧
      sameUnitM s t ∧ sameInput s t := by
  induction buffers generalizing s with
  | nil =>
    exact ⟨_, _, runAll_cons (exec_enclatch s), rfl,
      parseStream_encode (i := enclatchFrame s.cfg) rfl (encode_enclatchFrame _), s.afterEncode_keeps _⟩
  | cons b buffers ih =>
    obtain ⟨⟨hc, hlen⟩, hrest⟩ := List.forall_mem_cons.1 hb
    obtain ⟨t, produced, hrun, hout, hparse, hkeeps⟩ := ih (s := s.afterEncode (encpixBody s.cfg b.1 b.2)) horder hrest
    have hfirst := parseStream_encode (encpixFrame_wellFormed s.cfg hc hlen) (encode_encpixFrame ..)
    exact ⟨t, _, (runAll_cons (exec_encpix_eq horder (Config.ne_chLatch_iff.2 hc) hlen)).trans hrun,
      hout.trans (List.append_assoc ..), (parseStream_append hfirst hparse :), hkeeps⟩

/-- A tick sends its buffers by ascending channel (70_reset_and_hazards.md R186). -/
theorem runAll_tick (horder : orderLegal s.cfg.order = true)
    (hb : ∀ b ∈ buffers, b.1.toNat ≤ 254 ∧ b.2.length ≤ 65535) :
    ∃ t produced, runAll (tick buffers) s = .next t ∧ t.out = s.out ++ produced ∧
      parseStream s.cfg.magic produced = some (bufferFrames s.cfg (byChannel buffers) ++ [enclatchFrame s.cfg]) ∧
      sameUnitM s t ∧ sameInput s t :=
  runAll_framesThenLatch horder fun b hmem => hb b (mem_byChannel.1 hmem)

theorem bufferFrames_madeBy (cfg : Config) (hb : ∀ b ∈ buffers, b.1.toNat ≤ 254 ∧ b.2.length ≤ 65535) :
    ∀ f ∈ bufferFrames cfg buffers, madeBy cfg f := by
  refine List.forall_mem_map.2 fun b hmem => ?_
  obtain ⟨hc, hlen⟩ := hb b hmem
  exact encpixFrame_madeBy cfg hc hlen

end Tick

/-- Settles O56: the frames are those of the buffers by channel, each made by this encoder. -/
theorem tickOutputReadsAsItsFrames : Obligations.TickOutputReadsAsItsFrames := by
  intro s buffers horder hb
  obtain ⟨t, produced, hrun, hout, hparse, hM, hin⟩ := runAll_tick horder hb
  have hmade := bufferFrames_madeBy s.cfg fun b hmem => hb b (mem_byChannel.1 hmem)
  refine ⟨t, produced, _, _, hrun, hout, hparse, ?_, ?_, fun n b hn => ?_, hM, hin⟩
  · rw [bufferFrames, List.length_map, byChannel_length]
  · exact List.forall_mem_append.2 ⟨hmade, List.forall_mem_singleton.2 rfl⟩
  · exact ⟨_, by rw [bufferFrames, List.getElem?_map, hn]; rfl⟩

section Stores

variable {s : State} {color : Pixel} {g j : Nat} {i : Instr}

/-- The instruction is an RSET of `color` inside a ring of the state, at global index `g` (41_mapper.md R135). -/
def StoresAt (s : State) (color : Pixel) (g : Nat) (i : Instr) : Prop :=
  ∃ r k d, s.ringAt r = some d ∧ k < d.count ∧ mapIndex d k = g ∧ i = .rset r k color

theorem StoresAt.exec_eq (h : StoresAt s color g i) (hs : s.Inv) :
    exec i s = .next ((s.setPixel g color).report (.ok .unit)) := by
  obtain ⟨r, k, d, hd, hk, rfl, rfl⟩ := h
  exact exec_rset_eq color (hs.lt_nrings hd) hd hk (hs.mapIndex_lt_stripLen hd hk)

theorem StoresAt.lt_cursor (h : StoresAt s color g i) (hs : s.Inv) : g < s.cursor := by
  obtain ⟨r, k, d, hd, hk, rfl, -⟩ := h
  exact hs.mapIndex_lt_cursor hd hk

theorem StoresAt.index_unique (hg : StoresAt s color g i) (hj : StoresAt s color j i) : g = j := by
  obtain ⟨r, k, d, hd, -, rfl, rfl⟩ := hg
  obtain ⟨_, _, e, he, -, rfl, heq⟩ := hj
  cases heq
  cases hd.symm.trans he
  rfl

/-- Every allocated pixel has its store (41_mapper.md R137). -/
theorem State.Inv.exists_storesAt (hs : s.Inv) (color : Pixel) (hg : g < s.cursor) : ∃ i, StoresAt s color g i := by
  obtain ⟨r, d, hd, hlow, hhigh⟩ := hs.exists_ring_of_lt_cursor hg
  exact ⟨_, r, unmapIndex d g, d, hd, unmapIndex_lt_count hlow hhigh, mapIndex_unmapIndex hlow hhigh, rfl⟩

/-- A run of stores of one colour completes, leaves the rings, and leaves that colour wherever it was before or one of
the stores puts it. -/
theorem runAll_stores {ops : List Instr} (hs : s.Inv) (hops : ∀ i ∈ ops, ∃ g, StoresAt s color g i) :
    ∃ t, runAll ops s = .next t ∧ t.cursor = s.cursor ∧ t.nrings = s.nrings ∧ (∀ r, t.ringAt r = s.ringAt r) ∧
      ∀ g, (s.stripAt g = some color ∨ ∃ i ∈ ops, StoresAt s color g i) → t.stripAt g = some color := by
  induction ops generalizing s with
  | nil => exact ⟨s, rfl, rfl, rfl, fun _ => rfl, by simp⟩
  | cons i ops ih =>
    obtain ⟨⟨j, hj⟩, hrest⟩ := List.forall_mem_cons.1 hops
    have hstored : ((s.setPixel j color).report (.ok .unit)).Inv := (hs.setPixel (hj.lt_cursor hs) color).report _
    obtain ⟨t, hrun, hcursor, hnrings, hring, hstrip⟩ := ih hstored hrest
    refine ⟨t, (runAll_cons (hj.exec_eq hs)).trans hrun, hcursor, hnrings, hring, fun g hg => hstrip g ?_⟩
    rw [State.report_stripAt, State.setPixel_stripAt]
    by_cases hjg : j = g
    · exact .inl (if_pos hjg)
    · rw [if_neg hjg]
      refine hg.imp_right fun hput => ?_
      rcases List.or_exists_of_exists_mem_cons hput with hhead | hmore
      · exact absurd (hj.index_unique hhead) hjg
      · exact hmore

/-- The stores of a shutdown (70_reset_and_hazards.md R188). -/
def clearRings (s : State) : List Instr := (List.range s.nrings).flatMap (clearRing s)

theorem shutdown_eq (s : State) (buffers : List (Byte × Nat)) :
    shutdown s buffers = tick (buffers.map fun b => (b.1, List.replicate b.2 black)) ++ clearRings s := rfl

/-- The stores depend on the rings only. -/
theorem clearRings_congr {t : State} (hnrings : t.nrings = s.nrings) (hring : ∀ r, t.ringAt r = s.ringAt r) :
    clearRings t = clearRings s := by
  have hclear : clearRing t = clearRing s := funext fun r => by rw [clearRing, hring, clearRing]
  rw [clearRings, hnrings, hclear, clearRings]

theorem mem_clearRings (hs : s.Inv) : i ∈ clearRings s ↔ ∃ g, StoresAt s black g i := by
  simp only [clearRings, List.mem_flatMap, List.mem_range, mem_clearRing]
  constructor
  · rintro ⟨r, -, k, d, hd, hk, rfl⟩
    exact ⟨_, r, k, d, hd, hk, rfl, rfl⟩
  · rintro ⟨_, r, k, d, hd, hk, -, rfl⟩
    exact ⟨r, hs.lt_nrings hd, k, d, hd, hk, rfl⟩

/-- The stores of a shutdown leave every allocated pixel (0,0,0,0) and the rings as before. -/
theorem runAll_clearRings (hs : s.Inv) :
    ∃ t, runAll (clearRings s) s = .next t ∧ t.cursor = s.cursor ∧ t.nrings = s.nrings ∧
      (∀ r, t.ringAt r = s.ringAt r) ∧ ∀ g, g < s.cursor → t.stripAt g = some black := by
  obtain ⟨t, hrun, hcursor, hnrings, hring, hstrip⟩ := runAll_stores hs fun i => (mem_clearRings hs).1
  refine ⟨t, hrun, hcursor, hnrings, hring, fun g hg => hstrip g (.inr ?_)⟩
  obtain ⟨i, hi⟩ := hs.exists_storesAt black hg
  exact ⟨i, (mem_clearRings hs).2 ⟨g, hi⟩, hi⟩

end Stores

/-- Settles O57: the tick leaves unit M, so its stores are those of the state it ends in; at and above the cursor the
invariant keeps the strip empty. -/
theorem shutdownClearsEveryRing : Obligations.ShutdownClearsEveryRing := by
  intro s buffers hs horder hb
  have hblack : ∀ b ∈ buffers.map fun b => (b.1, List.replicate b.2 black), b.1.toNat ≤ 254 ∧ b.2.length ≤ 65535 :=
    List.forall_mem_map.2 fun b hmem => by simpa using hb b hmem
  obtain ⟨t, _, htick, -, -, ⟨htcursor, htnrings, htring, -⟩, -⟩ := runAll_tick horder hblack
  have ht : t.Inv := runAll_keeps_inv hs htick
  obtain ⟨u, hclear, hcursor, hnrings, hring, hstrip⟩ := runAll_clearRings ht
  have hempty := (runAll_keeps_inv ht hclear).written
  rw [hcursor, htcursor] at hempty
  refine ⟨u, ?_, fun g hg => hstrip g (htcursor ▸ hg), hempty, hcursor.trans htcursor, hnrings.trans htnrings,
    fun r => (hring r).trans (htring r)⟩
  rw [shutdown_eq, runAll_append htick, ← clearRings_congr htnrings htring, hclear]

end Sys2Proof.Machine
end
